-- ==== Sys2Proof/Word.lean ====
section
/-! DEFINITION. The word types of the digest engine: 64-bit datapath values (rule R6) and bytes. -/

namespace Sys2Proof

/-- A datapath value or a register slot: 64 bits (rule R6). -/
abbrev Word := BitVec 64

/-- One byte of the source space (rule R66). -/
abbrev Byte := BitVec 8

end Sys2Proof
end

