-- ==== Sys2Proof/Config.lean ====
section
/-! DEFINITION. What an implementation fixes: the parameters of rule R4 that the spec leaves OPEN, as a record that the
state carries and no step writes (so a statement about every state is a statement about every value of them), and the
free values the spec leaves open, as constants without a body. The parameter TAIL_K2_MIX is not here: rule R155 fixes
it (Machine/Datapath.lean). -/

namespace Sys2Proof

/-- A range of source-space addresses, `base` to `base + size - 1`. -/
structure Region where
  base : Nat
  size : Nat
deriving DecidableEq, Repr

/-- The OPEN parameters of rule R4, and the part of the platform's address map that rule R72 speaks of. -/
structure Config where
  /-- `ADDR_W - 1`, so that `1 ≤ ADDR_W ≤ 64` holds by construction (rule R4). -/
  addrWPred : Fin 64
  /-- `REG_BASE`, the platform address of the register window (rules R4, R22). -/
  regBase : Nat
  /-- `PORT_CAN_FAIL`: whether the source port may answer a read with `Err` (rules R4, R232). -/
  portCanFail : Bool
  /-- `BUS_RESPONSE_REFUSED`: what the platform bus returns to a register access this spec refuses. No step reads it:
  rule R63 gives such an access no step, never a value. -/
  busResponseRefused : Option Word
  /-- The source addresses that are not ordinary memory: reading them has side effects (rule R72). -/
  devices : List Region
deriving DecidableEq, Repr

/-- The parameters the machine carries at reset. DESIGN CHOICE (notes/assumptions/2.md): the spec leaves them OPEN; these
are the values of the spec's own examples (`ADDR_W = 64`), with a port that may fail. -/
def Config.standard : Config :=
  { addrWPred := 63, regBase := 0, portCanFail := true, busResponseRefused := none, devices := [] }

/-- The free byte of draw `n`: what a read returns for a source byte that was written during the run (rule R77,
93_implementation_defined.md U5; notes/assumptions/5.md). No body: nothing can be proved about its value. -/
opaque Config.freeByte : Nat → Byte

/-- The free word of draw `n`: what a working register holds where rules R43 and R236 leave it unspecified
(93_implementation_defined.md U7; notes/assumptions/5.md). No body: nothing can be proved about its value. -/
opaque Config.freeWord : Nat → Word

end Sys2Proof
end

