-- ==== Sys2Proof/Syntax.lean ====
section
/-! DEFINITION. The engine's instructions, one constructor for each row of spec/opcode_table.json (rules R91, R93), and
the other things that reach the engine from outside: host register accesses (rules R61 to R63), the inputs of the machine
(rules R20, R260), and the host program notation of rules R99 and R100. -/

namespace Sys2Proof

/-- The two formats of spec/opcode_table.json: the CTRL write word (rule R90) and the STATUS.PHASE code (rule R93). -/
inductive Format where
  | ctrl
  | phase
deriving DecidableEq, Repr

/-- One constructor per row of the opcode table. No row has an operand field (rule R94). -/
inductive Instr where
  -- host commands, CTRL[3:0] (rule R91)
  | nop | hash | abort | clear
  | reserved4 | reserved5 | reserved6 | reserved7 | reserved8 | reserved9
  | reservedA | reservedB | reservedC | reservedD | reservedE | reservedF
  -- engine micro-ops, STATUS.PHASE (rule R93)
  | idle | init | block | tail | lfold | xlane | fmix | combine
  | phaseReserved8 | phaseReserved9 | phaseReservedA | phaseReservedB
  | phaseReservedC | phaseReservedD | phaseReservedE | phaseReservedF
deriving DecidableEq, Repr

/-- Why bytes are not an instruction. -/
inductive DecodeError where
  /-- A CTRL write word is 64 bits, or 32 bits as CTRL's low half (rule R90): `n` bytes are neither. -/
  | ctrlLength (n : Nat)
  /-- The PHASE code is one 4-bit field (rule R93): `n` bytes are not one. -/
  | phaseLength (n : Nat)
  /-- The PHASE code is one 4-bit field (rule R93): this byte does not fit. -/
  | phaseWidth (b : Byte)
  /-- The table has no row of this format with this code (it has one for every code). -/
  | noRow (code : BitVec 4)
deriving DecidableEq, Repr

/-- The eight 64-bit slots of the register window, in offset order (rule R22). -/
inductive Slot where
  | ctrl | status | seed | len | src | result | resultH2 | reserved
deriving DecidableEq, Repr

/-- Which part of a slot an access reaches (rules R61, R62). -/
inductive Part where
  | whole | lo | hi
deriving DecidableEq, Repr

/-- A host access on the bus, of any width and at any platform address (rules R61 to R63). The data of a write of fewer
than 64 bits stands in the low bits of `data`. -/
inductive Access where
  | read (addr width : Nat)
  | write (addr width : Nat) (data : Word)
deriving DecidableEq, Repr

/-- What the source port answers a read request with (rule R9). -/
inductive PortAnswer where
  | ok
  | err
deriving DecidableEq, Repr

/-- One event at the machine's edge. The list of them in the state says which agent moves next (rule R20). -/
inductive Input where
  /-- The engine's turn (rule R170). -/
  | engine
  /-- A host register access (rules R61 to R63). -/
  | access (a : Access)
  /-- Some agent's write of one source byte becomes visible to the engine's port (rules R66, R75 to R77). -/
  | store (addr : Nat) (byte : Byte)
  /-- A hardware reset (rule R260). -/
  | reset
deriving DecidableEq, Repr

/-- One line of a host program (rule R99). Temporaries and labels are numbered. -/
inductive HostLine where
  | wr64 (reg : Slot) (v : Word)
  | wr32 (reg : Slot) (high : Bool) (v : BitVec 32)
  | rd64 (reg : Slot) (t : Nat)
  | rd32 (reg : Slot) (high : Bool) (t : Nat)
  | label (l : Nat)
  | bnz (t : Nat) (mask : Word) (l : Nat)
deriving DecidableEq, Repr

/-- The pseudo-instructions of rule R100. The temporaries and labels they use are parameters. -/
inductive Pseudo where
  | nop | hash | abort | clear
  | wait (t l : Nat)
  | hash128 (src len seed : Word) (t l st res : Nat)
deriving DecidableEq, Repr

end Sys2Proof
end

