-- ==== Sys2Proof/WellFormed.lean ====
section
/-! DEFINITION. What well-formed terms of Syntax.lean are. No instruction has an operand (rule R94), so every term of Instr
is well formed. The checks are on host accesses (rules R61 to R63) and on the bytes of an instruction word (rules R90, R93). -/

namespace Sys2Proof

/-- Every instruction is well formed: no row of the table has an operand field (rule R94). -/
abbrev Instr.wf (_ : Instr) : Prop := True

/-- The widths a register access may have (rules R61, R62). -/
def accessWidthOk (width : Nat) : Bool := width == 64 || width == 32

/-- The offset is a multiple of the width (rules R61 to R63). -/
def accessAligned (offset width : Nat) : Bool := offset % (width / 8) == 0

/-- The access lies inside the 0x40 bytes of the register window at `regBase` (rules R22, R63). -/
def accessInWindow (regBase addr width : Nat) : Bool :=
  decide (regBase ≤ addr) && decide (addr + width / 8 ≤ regBase + 0x40)

/-- The address and width of a host access. -/
def Access.addr : Access → Nat
  | .read a _ => a
  | .write a _ _ => a

/-- The width of a host access in bits. -/
def Access.width : Access → Nat
  | .read _ w => w
  | .write _ w _ => w

/-- The host accesses rules R61 and R62 give a meaning; rule R63 refuses every other. -/
def Access.wf (regBase : Nat) (a : Access) : Bool :=
  accessWidthOk a.width && accessInWindow regBase a.addr a.width && accessAligned (a.addr - regBase) a.width

/-- The bytes an instruction word of each format may have: 4 or 8 for CTRL (rule R90), one byte below 16 for PHASE
(rule R93). -/
def wordWf : Format → List Byte → Bool
  | .ctrl, bs => bs.length == 4 || bs.length == 8
  | .phase, bs => bs.length == 1 && bs.all (fun b => decide (b.toNat < 16))

end Sys2Proof
end

