-- ==== Sys2Proof/Decode.lean ====
section
/-! DEFINITION. The decoder and the encoder, from the tables of rules R91 and R93. An instruction's bytes are little-endian
(rule R64). Decoding is total: bytes that are no instruction word are refused by name. -/

namespace Sys2Proof

/-- The `n` low bytes of a number, least significant first (rule R64). -/
def bytesLE : Nat → Nat → List Byte
  | 0, _ => []
  | n + 1, v => BitVec.ofNat 8 v :: bytesLE n (v / 256)

/-- The rows of the CTRL format: `match` is the code, `mask` is 0xF (rule R91). -/
def commandTable : List (BitVec 4 × Instr) :=
  [(0x0, .nop), (0x1, .hash), (0x2, .abort), (0x3, .clear),
   (0x4, .reserved4), (0x5, .reserved5), (0x6, .reserved6), (0x7, .reserved7),
   (0x8, .reserved8), (0x9, .reserved9), (0xA, .reservedA), (0xB, .reservedB),
   (0xC, .reservedC), (0xD, .reservedD), (0xE, .reservedE), (0xF, .reservedF)]

/-- The rows of the PHASE format (rule R93; codes 8 to 15 are rule R97's). -/
def phaseTable : List (BitVec 4 × Instr) :=
  [(0x0, .idle), (0x1, .init), (0x2, .block), (0x3, .tail),
   (0x4, .lfold), (0x5, .xlane), (0x6, .fmix), (0x7, .combine),
   (0x8, .phaseReserved8), (0x9, .phaseReserved9), (0xA, .phaseReservedA), (0xB, .phaseReservedB),
   (0xC, .phaseReservedC), (0xD, .phaseReservedD), (0xE, .phaseReservedE), (0xF, .phaseReservedF)]

/-- The table of a format. -/
def tableOf : Format → List (BitVec 4 × Instr)
  | .ctrl => commandTable
  | .phase => phaseTable

/-- The row of a format with this code. -/
def decodeCode (f : Format) (code : BitVec 4) : Except DecodeError Instr :=
  match (tableOf f).find? (fun row => row.1 == code) with
  | some row => .ok row.2
  | none => .error (.noRow code)

/-- Bits 3:0 of a word whose first (least significant) byte is `b`. -/
def lowNibble (b : Byte) : BitVec 4 := b.extractLsb' 0 4

/-- The instruction the bytes of a word of format `f` are. For CTRL only bits 3:0 count: bits 63:4 are ignored (rules R90,
R96). -/
def decode : Format → List Byte → Except DecodeError Instr
  | .ctrl, bs =>
    match bs with
    | b :: rest =>
      if rest.length = 3 ∨ rest.length = 7 then decodeCode .ctrl (lowNibble b)
      else .error (.ctrlLength (rest.length + 1))
    | [] => .error (.ctrlLength 0)
  | .phase, bs =>
    match bs with
    | [b] => if b.toNat < 16 then decodeCode .phase (lowNibble b) else .error (.phaseWidth b)
    | _ => .error (.phaseLength bs.length)

/-- The format an instruction belongs to. -/
def Instr.format : Instr → Format
  | .nop | .hash | .abort | .clear => .ctrl
  | .reserved4 | .reserved5 | .reserved6 | .reserved7 | .reserved8 | .reserved9 => .ctrl
  | .reservedA | .reservedB | .reservedC | .reservedD | .reservedE | .reservedF => .ctrl
  | .idle | .init | .block | .tail | .lfold | .xlane | .fmix | .combine => .phase
  | .phaseReserved8 | .phaseReserved9 | .phaseReservedA | .phaseReservedB => .phase
  | .phaseReservedC | .phaseReservedD | .phaseReservedE | .phaseReservedF => .phase

/-- The code of an instruction in its format: CTRL[3:0] (rule R91) or STATUS.PHASE (rule R93). -/
def Instr.code : Instr → BitVec 4
  | .nop => 0x0
  | .hash => 0x1
  | .abort => 0x2
  | .clear => 0x3
  | .reserved4 => 0x4
  | .reserved5 => 0x5
  | .reserved6 => 0x6
  | .reserved7 => 0x7
  | .reserved8 => 0x8
  | .reserved9 => 0x9
  | .reservedA => 0xA
  | .reservedB => 0xB
  | .reservedC => 0xC
  | .reservedD => 0xD
  | .reservedE => 0xE
  | .reservedF => 0xF
  | .idle => 0x0
  | .init => 0x1
  | .block => 0x2
  | .tail => 0x3
  | .lfold => 0x4
  | .xlane => 0x5
  | .fmix => 0x6
  | .combine => 0x7
  | .phaseReserved8 => 0x8
  | .phaseReserved9 => 0x9
  | .phaseReservedA => 0xA
  | .phaseReservedB => 0xB
  | .phaseReservedC => 0xC
  | .phaseReservedD => 0xD
  | .phaseReservedE => 0xE
  | .phaseReservedF => 0xF

/-- The word of an instruction: eight bytes with the ignored bits 0 for a command (rule R90), one byte for a PHASE code. -/
def encode (i : Instr) : List Byte :=
  match i.format with
  | .ctrl => bytesLE 8 i.code.toNat
  | .phase => bytesLE 1 i.code.toNat

/-- How many bytes the word of a table row has: a PHASE row is one 4-bit field, a CTRL row a 64-bit word, or its 32-bit
low half (rules R90, R93). A shorter CTRL word has zeros above it. -/
def tableWordBytes (nbits : Nat) : Nat :=
  if nbits ≤ 8 then 1 else if nbits = 32 then 4 else if nbits ≤ 64 then 8 else nbits / 8

/-- The format of a table row of `nbits` bits (notes/assumptions/10.md). -/
def tableWordFormat (nbits : Nat) : Format :=
  if nbits ≤ 8 then .phase else .ctrl

/-- The instruction the decoder reads from an instruction whose bits are `w`, numbered as the opcode table numbers them. -/
def decodeTableWord (nbits w : Nat) : Option Instr :=
  match decode (tableWordFormat nbits) (bytesLE (tableWordBytes nbits) w) with
  | .ok i => some i
  | .error _ => none

end Sys2Proof
end

