-- ==== Sys2Proof/Machine/State.lean ====
section
/-! DEFINITION. The machine's state as plain data, the reasons a step can stop, and the state after reset. -/

namespace Sys2Proof.Machine

/-- The source memory: (address, byte) pairs in one canonical form, addresses strictly rising and no entry equal to what an
unlisted address reads as (Machine/Ops.lean, `Memory.wf`). -/
abbrev Memory := List Host.Cell

/-- STATUS.ERRCODE (rule R27). Codes 5 to 15 are never produced, so they have no constructor (DEDUCED,
notes/assumptions/19.md). -/
inductive ErrCode where
  | none | invalidInput | busError | aborted | illegalCmd
deriving DecidableEq, Repr

/-- The fields of the STATUS register (rules R24 to R28). Bit 3 and bits 63:12 read as 0 (rule R29) and hold no state.
PHASE keeps its 4-bit code, since it is the word the engine's next step is decoded from (rules R31, R93). -/
structure Status where
  busy : Bool
  done : Bool
  err : Bool
  errcode : ErrCode
  phase : BitVec 4
deriving DecidableEq, Repr

/-- The working registers of the datapath (rules R40 to R42). -/
structure Working where
  h1 : Word
  h2 : Word
  k1 : Word
  k2 : Word
  nb : Word
  blk : Word
deriving DecidableEq, Repr

/-- One request of the source port: `count` bytes from `addr` (rule R9). -/
structure Request where
  addr : Nat
  count : Nat
deriving DecidableEq, Repr

/-- Everything the spec gives the machine, its surroundings' pending inputs among it. -/
structure State where
  /-- The OPEN parameters (rule R4); no step writes them. -/
  cfg : Config
  /-- STATUS (rules R24 to R31). -/
  status : Status
  /-- SEED[31:0] (rule R32). -/
  seed : BitVec 32
  /-- LEN (rule R33). -/
  len : Word
  /-- SRC (rule R34). -/
  src : Word
  /-- RESULT (rule R35). -/
  result : Word
  /-- RESULT_H2 (rule R36). -/
  resultH2 : Word
  /-- W.h1, W.h2, W.k1, W.k2, W.nb, W.blk (rules R40 to R43). -/
  w : Working
  /-- The source memory as the engine's port sees it (rules R66, R75). -/
  mem : Memory
  /-- The addresses of the source region written since the running HASH was accepted, rising (rule R77). -/
  touched : List Nat
  /-- The events to come, first one first; when it is empty the engine moves (rules R20, R270). -/
  inputs : List Input
  /-- The port's answers to the read requests to come, first one first; `ok` when it is empty (rules R9, R232). -/
  portAnswers : List PortAnswer
  /-- The last request the source port made (rules R9, R70). -/
  request : Option Request
  /-- What the bus returned for the host's last register read, zero-extended (rules R61, R62, R116). -/
  reply : Option Word
  /-- The model's own counter of free values drawn (rules R43, R77). -/
  draws : Nat
deriving DecidableEq, Repr

/-- Why the machine stops with a fault. -/
inductive Fault where
  /-- Raised by BLOCK, TAIL and an agent's store for an address of `2^ADDR_W` or more, which the source space does not have
  (rule R66). Safe: the engine never makes such a request in a state that keeps Safety.lean's `Inv` (rule R70). -/
  | noSuchSourceAddress
deriving DecidableEq, Repr

/-- Why a step has no meaning. -/
inductive Refusal where
  /-- Raised by exec's arms for an instruction that has no meaning yet (none is left). Safe. -/
  | notModelled (mnemonic : String)
  /-- Raised by the micro-ops of PHASE codes 8 to 15, which no rule produces (rule R97: a model must refuse them). Safe. -/
  | reservedPhase
  /-- Raised by a host access that is not an aligned 64-bit or 32-bit access of the register window (rule R63). Safe. -/
  | registerAccess
  /-- Raised by HASH, BLOCK and TAIL when the source region holds an address whose reads have side effects (rule R72), and by
  an agent's store to such an address. Safe. -/
  | sideEffectingSource
  /-- Raised by a turn whose bytes decode to no instruction. No state has such a turn. Safe. -/
  | undecodable
deriving DecidableEq, Repr

/-- The reset value of STATUS: every field 0 (rule R261). -/
def Status.reset : Status :=
  { busy := false, done := false, err := false, errcode := .none, phase := 0 }

/-- The machine right after reset (rules R260, R261). The working registers, which the spec leaves unspecified, and the
model's own fields have the values notes/assumptions/1.md, 2.md and 3.md name. -/
def State.reset : State :=
  { cfg := Config.standard
    status := Status.reset
    seed := 0
    len := 0
    src := 0
    result := 0
    resultH2 := 0
    w := { h1 := 0, h2 := 0, k1 := 0, k2 := 0, nb := 0, blk := 0 }
    mem := []
    touched := []
    inputs := []
    portAnswers := []
    request := none
    reply := none
    draws := 0 }

end Sys2Proof.Machine
end

