-- ==== Sys2Proof/Machine/Flags.lean ====
section
/-! DEFINITION. The status bits: the STATUS word (rule R92) and every change of its fields that a rule makes. The datapath
has no condition codes (rules R44, R154). -/

namespace Sys2Proof.Machine

/-- The 4-bit code of an error cause (rules R27, R230). -/
def ErrCode.code : ErrCode → BitVec 4
  | .none => 0
  | .invalidInput => 1
  | .busError => 2
  | .aborted => 3
  | .illegalCmd => 4

/-- A flag as bit 0 of a word. -/
def flagWord (b : Bool) : Word := if b then 1 else 0

/-- `STATUS = BUSY | DONE << 1 | ERR << 2 | ERRCODE << 4 | PHASE << 8` (rule R92). -/
def Status.toWord (st : Status) : Word :=
  flagWord st.busy ||| flagWord st.done <<< 1 ||| flagWord st.err <<< 2
    ||| st.errcode.code.setWidth 64 <<< 4 ||| st.phase.setWidth 64 <<< 8

/-- STATUS after an accepted HASH (rule R112): BUSY, and PHASE INIT. -/
def Status.accepted (_ : Status) : Status :=
  { busy := true, done := false, err := false, errcode := .none, phase := 1 }

/-- STATUS after a micro-op that only names its successor (rule R31). -/
def Status.toPhase (st : Status) (p : BitVec 4) : Status := { st with phase := p }

/-- STATUS after COMBINE (rule R213): DONE and PHASE IDLE, BUSY off; ERR and ERRCODE stay. -/
def Status.completed (st : Status) : Status := { st with busy := false, done := true, phase := 0 }

/-- STATUS after error entry (rule R236). -/
def Status.error (_ : Status) (e : ErrCode) : Status :=
  { busy := false, done := false, err := true, errcode := e, phase := 0 }

/-- STATUS after an idle CLEAR (rules R114, R238): DONE, ERR and ERRCODE 0. -/
def Status.cleared (st : Status) : Status := { st with done := false, err := false, errcode := .none }

end Sys2Proof.Machine
end

