-- ==== Sys2Proof/Machine/Ops.lean ====
section
/-! DEFINITION. The shared operations: source memory, the engine's read port (rule R9), error entry and return (rules R236,
R238), the start of a run (rule R112) and a reset (rule R260). -/

namespace Sys2Proof.Machine

/-! ### Source memory -/

/-- What a source byte that nothing has written reads as. DESIGN CHOICE (notes/assumptions/4.md). -/
def unlistedByte : Byte := 0

/-- The byte at an address (rule R66). -/
def Memory.read : Memory → Nat → Byte
  | [], _ => unlistedByte
  | (k, v) :: m, a => if k = a then v else Memory.read m a

/-- The memory with one byte replaced, in canonical form. -/
def Memory.write : Memory → Nat → Byte → Memory
  | [], a, v => if v = unlistedByte then [] else [(a, v)]
  | (k, u) :: m, a, v =>
    if a < k then
      if v = unlistedByte then (k, u) :: m else (a, v) :: (k, u) :: m
    else if a = k then
      if v = unlistedByte then m else (a, v) :: m
    else (k, u) :: Memory.write m a v

/-- The canonical form: addresses strictly rising, no entry equal to what an unlisted address reads as. -/
def Memory.wf : Memory → Bool
  | [] => true
  | [(_, v)] => v != unlistedByte
  | (a, v) :: (b, u) :: m => v != unlistedByte && decide (a < b) && Memory.wf ((b, u) :: m)

/-- The bytes at `a`, `a + 1`, …, `a + n - 1`. -/
def Memory.bytes (m : Memory) (a n : Nat) : List Byte := (List.range n).map (fun j => m.read (a + j))

/-! ### The source space and region -/

end Sys2Proof.Machine

namespace Sys2Proof

/-- `ADDR_W`, from 1 to 64 (rule R4). -/
def Config.addrW (c : Config) : Nat := c.addrWPred.val + 1

/-- The number of bytes of the source space, `2^ADDR_W` (rule R66). -/
def Config.sourceSize (c : Config) : Nat := 2 ^ c.addrW

/-- Some byte of `a` to `a + n - 1` is not ordinary memory (rule R72). -/
def Config.touchesDevice (c : Config) (a n : Nat) : Bool :=
  c.devices.any (fun r => decide (max a r.base < min (a + n) (r.base + r.size)))

end Sys2Proof

namespace Sys2Proof.Machine

/-- The address is a byte of the source region `[SRC, SRC+LEN)` (rule R77). -/
def State.inRegion (s : State) (a : Nat) : Bool :=
  decide (s.src.toNat ≤ a) && decide (a < s.src.toNat + s.len.toNat)

/-- HASH's check: `int(LEN) > 0 and int(SRC) + int(LEN) > 2^ADDR_W` (rules R112, R231). -/
def State.regionInvalid (s : State) : Bool :=
  decide (0 < s.len.toNat) && decide (s.cfg.sourceSize < s.src.toNat + s.len.toNat)

/-! ### The read port -/

/-- What a `MemRead` returns (rule R9): `Ok(v)`, the value zero-extended to the 16 bytes of the widest request, or `Err`. -/
inductive ReadResult where
  | ok (v : BitVec 128)
  | err
deriving DecidableEq, Repr

/-- The little-endian value of at most 16 bytes: byte `j` is bits `8j+7:8j` (rules R9, R67). -/
def leValue : List Byte → BitVec 128
  | [] => 0
  | b :: bs => b.setWidth 128 ||| leValue bs <<< 8

/-- `LE64(b0, …, b7)`, the first byte least significant (rule R11). -/
def le64 : List Byte → Word
  | [] => 0
  | b :: bs => b.setWidth 64 ||| le64 bs <<< 8

/-- The byte the port returns for address `a`: the stored one (rule R75), or a draw if the byte was written during the run
(rule R77). -/
def State.portByte (s : State) (draw a : Nat) : Byte :=
  if a ∈ s.touched then Config.freeByte draw else s.mem.read a

/-- The bytes of a read request, byte `j` from `a + j`. -/
def State.portBytes (s : State) (a n : Nat) : List Byte :=
  (List.range n).map (fun j => s.portByte (s.draws + j) (a + j))

/-- The answer to the next read request: the environment's, where the platform's port can fail (rules R4, R232). DESIGN CHOICE
(notes/assumptions/15.md). -/
def State.nextAnswer (s : State) : PortAnswer :=
  match s.cfg.portCanFail, s.portAnswers with
  | true, a :: _ => a
  | _, _ => .ok

/-- The state after a request of `n` bytes at `a`: its answer taken, its draws counted. -/
def State.afterRequest (s : State) (a n : Nat) : State :=
  { s with portAnswers := s.portAnswers.tail, request := some { addr := a, count := n }, draws := s.draws + n }

/-- `MemRead(a, n)` (rule R9). `MemRead(a, 0)` makes no request and returns `Ok(0)`. An address the source space does not have
faults (DESIGN CHOICE, notes/assumptions/11.md), and one that is not ordinary memory is refused (rule R72; 12.md). -/
def memRead (a n : Nat) (s : State) : Host.Outcome (ReadResult × State) Fault Refusal :=
  if n = 0 then .next (.ok 0, s)
  else if s.cfg.sourceSize < a + n then .fault .noSuchSourceAddress
  else if s.cfg.touchesDevice a n then .refused .sideEffectingSource
  else match s.nextAnswer with
    | .err => .next (.err, s.afterRequest a n)
    | .ok => .next (.ok (leValue (s.portBytes a n)), s.afterRequest a n)

/-! ### The end of a micro-op -/

/-- The working registers with both lanes replaced. -/
def Working.withLanes (w : Working) (h1 h2 : Word) : Working := { w with h1 := h1, h2 := h2 }

/-- The end of a micro-op inside a run: its working registers, and its successor named in PHASE (rule R31). -/
def State.goTo (s : State) (w : Working) (p : BitVec 4) : State := { s with w := w, status := s.status.toPhase p }

/-- The end of a completed run with the lanes `h1` and `h2` (rule R213). -/
def State.complete (s : State) (h1 h2 : Word) : State :=
  { s with w := s.w.withLanes h1 h2, result := h1, resultH2 := h2, status := s.status.completed }

/-! ### Error entry, return, the start of a run -/

/-- Six free words for the working registers, from draw `d` on (rule R43). -/
def Working.free (d : Nat) : Working :=
  { h1 := Config.freeWord d, h2 := Config.freeWord (d + 1), k1 := Config.freeWord (d + 2)
    k2 := Config.freeWord (d + 3), nb := Config.freeWord (d + 4), blk := Config.freeWord (d + 5) }

/-- The working registers hold unspecified values from here on (rules R43, R236, R260). -/
def State.forgetWorking (s : State) : State := { s with w := Working.free s.draws, draws := s.draws + 6 }

/-- Error entry for a rejected command, INVALID_INPUT or ILLEGAL_CMD (rule R236): the working registers keep whatever they
held (rule R237). -/
def State.reject (s : State) (e : ErrCode) : State := { s with status := s.status.error e }

/-- Error entry for a stopped run, BUS_ERROR or ABORTED (rule R236): the working registers are unspecified afterwards
(rules R43, R237). -/
def State.stopRun (s : State) (e : ErrCode) : State := (s.reject e).forgetWorking

/-- Return from an error by CLEAR (rules R114, R238). -/
def State.clearError (s : State) : State := { s with status := s.status.cleared }

/-- A run starts (rule R112); no byte of its region is written yet (rule R77). -/
def State.startRun (s : State) : State := { s with status := s.status.accepted, touched := [] }

/-- A hardware reset (rules R260, R261). The source memory is not the engine's and keeps its bytes. -/
def State.hardwareReset (s : State) : State :=
  { s with
    status := Status.reset, seed := 0, len := 0, src := 0, result := 0, resultH2 := 0
    w := Working.free s.draws, draws := s.draws + 6, touched := [] }

end Sys2Proof.Machine
end

