-- ==== Sys2Proof/Machine/Operands.lean ====
section
/-! DEFINITION. The operand forms: the register window's slots and halves (rules R22, R61 to R64, R116, R117) and the
operands of the micro-ops (rules R171, R172, R190). -/

namespace Sys2Proof

/-- The byte offset of a slot in the register window (rule R22). -/
def Slot.offset : Slot → Nat
  | .ctrl => 0x00
  | .status => 0x08
  | .seed => 0x10
  | .len => 0x18
  | .src => 0x20
  | .result => 0x28
  | .resultH2 => 0x30
  | .reserved => 0x38

/-- The slots of the window in offset order. -/
def Slot.all : List Slot := [.ctrl, .status, .seed, .len, .src, .result, .resultH2, .reserved]

/-- The slot at an offset that is a multiple of 8 (rule R22). -/
def Slot.atOffset (off : Nat) : Option Slot := Slot.all.find? (fun r => r.offset == off)

/-- What a host access at `addr` of `width` bits reaches; `none` for an access rule R63 refuses (rules R61 to R63), an address
below the window among them (DEDUCED, notes/assumptions/13.md). -/
def Config.resolve (c : Config) (addr width : Nat) : Option (Slot × Part) :=
  if addr < c.regBase then none
  else
    let off := addr - c.regBase
    if width = 64 then
      (Slot.atOffset off).map (fun r => (r, .whole))
    else if width = 32 then
      if off % 8 = 4 then (Slot.atOffset (off - 4)).map (fun r => (r, .hi))
      else (Slot.atOffset off).map (fun r => (r, .lo))
    else none

/-- The part of a slot's value an access reads, zero-extended (rules R61, R62, R64). -/
def Part.select : Part → Word → Word
  | .whole, v => v
  | .lo, v => (v.extractLsb' 0 32).setWidth 64
  | .hi, v => (v.extractLsb' 32 32).setWidth 64

/-- The slot's value with the written part replaced (rule R62). -/
def Part.merge : Part → Word → Word → Word
  | .whole, _, v => v
  | .lo, old, v => old.extractLsb' 32 32 ++ v.extractLsb' 0 32
  | .hi, old, v => v.extractLsb' 0 32 ++ old.extractLsb' 0 32

/-- How many bytes of data a write of this part carries (rules R61, R62). -/
def Part.dataBytes : Part → Nat
  | .whole => 8
  | .lo => 4
  | .hi => 4

end Sys2Proof

namespace Sys2Proof.Machine

/-- The value a host reads from a slot (rules R23 to R37, R116). -/
def State.readSlot (s : State) : Slot → Word
  | .ctrl => 0
  | .status => s.status.toWord
  | .seed => s.seed.setWidth 64
  | .len => s.len
  | .src => s.src
  | .result => s.result
  | .resultH2 => s.resultH2
  | .reserved => 0

/-- A host write of `v` to a slot other than CTRL (rules R38, R39, R117). CTRL holds no state (rule R23). -/
def State.writeSlot (s : State) (r : Slot) (v : Word) : State :=
  match r with
  | .seed => if s.status.busy then s else { s with seed := v.extractLsb' 0 32 }
  | .len => if s.status.busy then s else { s with len := v }
  | .src => if s.status.busy then s else { s with src := v }
  | .ctrl | .status | .result | .resultH2 | .reserved => s

/-- `zext_64(SEED[31:0])` (rules R7, R171). -/
def State.seedOperand (s : State) : Word := s.seed.setWidth 64

/-- `LEN >>> 4`, the block count (rule R171). -/
def State.blockCount (s : State) : Word := s.len >>> 4

/-- `LEN[3:0]`, the number of tail bytes (rules R190, R192). -/
def State.remainder (s : State) : Nat := (s.len.extractLsb' 0 4).toNat

/-- `int(SRC) + 16·i`, the address of block `i`, an exact integer (rules R70, R172). -/
def State.blockAddress (s : State) (i : Word) : Nat := s.src.toNat + 16 * i.toNat

/-- `int(SRC) + 16·W.nb`, the address of the tail (rules R190, R192). -/
def State.tailAddress (s : State) : Nat := s.src.toNat + 16 * s.w.nb.toNat

end Sys2Proof.Machine
end

