-- ==== Sys2Proof/Machine/Commands.lean ====
section
/-! DEFINITION. The host commands, CTRL[3:0] (rules R110 to R115). Each meaning is the command's effect in the host step of
the write. -/

namespace Sys2Proof.Machine

/-- NOP (rule R111): `skip`. -/
def execNop (s : State) : Host.Outcome State Fault Refusal := .next s

/-- HASH (rules R112, R119, R231): ignored while a run is in progress, rejected if the region does not fit the source
space, else a run starts. Rule R72 refuses the run if its region is not ordinary memory (DEDUCED, notes/assumptions/12.md). -/
def execHash (s : State) : Host.Outcome State Fault Refusal :=
  if s.status.busy then .next s
  else if s.regionInvalid then .next (s.reject .invalidInput)
  else if s.cfg.touchesDevice s.src.toNat s.len.toNat then .refused .sideEffectingSource
  else .next s.startRun

/-- ABORT (rules R113, R233): stops a running run, else does nothing. -/
def execAbort (s : State) : Host.Outcome State Fault Refusal :=
  if s.status.busy then .next (s.stopRun .aborted) else .next s

/-- CLEAR (rules R114, R238): ignored while a run is in progress, else returns STATUS to its idle value. -/
def execClear (s : State) : Host.Outcome State Fault Refusal :=
  if s.status.busy then .next s else .next s.clearError

/-- A reserved command code (rules R95, R115, R234): ILLEGAL_CMD when idle, ignored while a run is in progress. -/
def reservedCommand (s : State) : Host.Outcome State Fault Refusal :=
  if s.status.busy then .next s else .next (s.reject .illegalCmd)

/-- Reserved command 0x4 (rule R115). -/
def execReserved4 (s : State) : Host.Outcome State Fault Refusal := reservedCommand s
/-- Reserved command 0x5 (rule R115). -/
def execReserved5 (s : State) : Host.Outcome State Fault Refusal := reservedCommand s
/-- Reserved command 0x6 (rule R115). -/
def execReserved6 (s : State) : Host.Outcome State Fault Refusal := reservedCommand s
/-- Reserved command 0x7 (rule R115). -/
def execReserved7 (s : State) : Host.Outcome State Fault Refusal := reservedCommand s
/-- Reserved command 0x8 (rule R115). -/
def execReserved8 (s : State) : Host.Outcome State Fault Refusal := reservedCommand s
/-- Reserved command 0x9 (rule R115). -/
def execReserved9 (s : State) : Host.Outcome State Fault Refusal := reservedCommand s
/-- Reserved command 0xA (rule R115). -/
def execReservedA (s : State) : Host.Outcome State Fault Refusal := reservedCommand s
/-- Reserved command 0xB (rule R115). -/
def execReservedB (s : State) : Host.Outcome State Fault Refusal := reservedCommand s
/-- Reserved command 0xC (rule R115). -/
def execReservedC (s : State) : Host.Outcome State Fault Refusal := reservedCommand s
/-- Reserved command 0xD (rule R115). -/
def execReservedD (s : State) : Host.Outcome State Fault Refusal := reservedCommand s
/-- Reserved command 0xE (rule R115). -/
def execReservedE (s : State) : Host.Outcome State Fault Refusal := reservedCommand s
/-- Reserved command 0xF (rule R115). -/
def execReservedF (s : State) : Host.Outcome State Fault Refusal := reservedCommand s

end Sys2Proof.Machine
end

