-- ==== Sys2Proof/Machine/Datapath.lean ====
section
/-! DEFINITION. The 64-bit block-mix datapath: the constants (rules R140 to R143), the units (rules R144 to R148) and the
composite functions (rules R149 to R155). All of it is pure and total: no unit sets a flag or raises (rule R154). -/

namespace Sys2Proof.Machine

/-! ### Constants (rules R140 to R143, R46) -/

/-- The first block key multiplier (rule R140). -/
def c1 : Word := 0x87C37B91114253D5
/-- The second block key multiplier (rule R140). -/
def c2 : Word := 0x4CF5AD432745937F
/-- The lane-1 addend (rule R141). -/
def a1 : Word := 0x0000000052DCE729
/-- The lane-2 addend (rule R141). -/
def a2 : Word := 0x0000000038495AB5
/-- The first finalization multiplier (rule R142). -/
def fmix1 : Word := 0xFF51AFD7ED558CCD
/-- The second finalization multiplier (rule R142). -/
def fmix2 : Word := 0xC4CEB9FE1A85EC53

/-! ### Units -/

/-- XOR64 (rule R144). -/
def xor64 (a b : Word) : Word := a ^^^ b

/-- ADD64, modulo `2^64` (rule R145). -/
def add64 (a b : Word) : Word := a + b

/-- MUL64, the low 64 bits of the product (rule R146). -/
def mul64 (a b : Word) : Word := a * b

/-- SHL64; 0 for amounts of 64 or more (rules R6, R147). -/
def shl64 (x : Word) (n : Nat) : Word := x <<< n

/-- SHR64, logical; 0 for amounts of 64 or more (rules R6, R147). -/
def shr64 (x : Word) (n : Nat) : Word := x >>> n

/-- ROTL64, `(x << r) | (x >>> (64 - r))` (rule R148). -/
def rotl64 (x : Word) (r : Nat) : Word := shl64 x r ||| shr64 x (64 - r)

/-! ### Composite functions -/

/-- The lane-1 key mix (rule R149). -/
def mixK1 (k : Word) : Word := mul64 (rotl64 (mul64 k c1) 31) c2

/-- The lane-2 key mix (rule R150). -/
def mixK2 (k : Word) : Word := mul64 (rotl64 (mul64 k c2) 33) c1

/-- The lane-1 block round; `h2` is lane 2 before this block (rule R151). -/
def roundH1 (h1 h2 k1 : Word) : Word :=
  add64 (mul64 (add64 (rotl64 (xor64 h1 (mixK1 k1)) 27) h2) 5) a1

/-- The lane-2 block round; `h1n` is lane 1 after this block's lane-1 round (rule R152). -/
def roundH2 (h2 h1n k2 : Word) : Word :=
  add64 (mul64 (add64 (rotl64 (xor64 h2 (mixK2 k2)) 31) h1n) 5) a2

/-- `x ^ (x >>> 33)`, the shift step of fmix (rule R153). -/
def xorShift33 (x : Word) : Word := xor64 x (shr64 x 33)

/-- The finalization mix of one lane (rule R153). -/
def fmix (x : Word) : Word :=
  xorShift33 (mul64 (xorShift33 (mul64 (xorShift33 x) fmix1)) fmix2)

/-- The two readings of the tail's second-lane mix (rule R155). -/
inductive TailMix where
  | mixK1
  | mixK2
deriving DecidableEq, Repr

/-- The value of TAIL_K2_MIX this hardware has (rules R155, R196; 90_conflicts.md C3). DEDUCED
(notes/assumptions/17.md). -/
def tailMixOfThisHardware : TailMix := .mixK1

/-- tailK2Mix under a reading of TAIL_K2_MIX (rule R155). -/
def tailK2MixWith : TailMix → Word → Word
  | .mixK1, k => mixK1 k
  | .mixK2, k => mixK2 k

/-- tailK2Mix of this hardware (rule R155). -/
def tailK2Mix (k : Word) : Word := tailK2MixWith tailMixOfThisHardware k

/-- `s64(v)`, the signed reading of a 64-bit pattern (rules R7, R214): the host's, not an operation of the engine. -/
def s64 (v : Word) : Int := if v.getLsbD 63 then (v.toNat : Int) - 2 ^ 64 else (v.toNat : Int)

end Sys2Proof.Machine
end

