-- ==== Sys2Proof/Machine/Finalization.lean ====
section
/-! DEFINITION. The finalization mix pipeline: LFOLD, XLANE, FMIX and COMBINE (rules R210 to R213). -/

namespace Sys2Proof.Machine

/-- The lanes `(h1 + h2, h2 + (h1 + h2))`: lane 2's addition uses the updated lane 1 (rules R211, R213). -/
def crossAdd (h1 h2 : Word) : Word × Word :=
  let h1n := add64 h1 h2
  (h1n, add64 h2 h1n)

/-- LFOLD (rule R210), the document's Step 4. -/
def execLfold (s : State) : Host.Outcome State Fault Refusal :=
  .next (s.goTo (s.w.withLanes (xor64 s.w.h1 s.len) (xor64 s.w.h2 s.len)) 5)

/-- XLANE (rule R211), the document's Step 5. -/
def execXlane (s : State) : Host.Outcome State Fault Refusal :=
  let h := crossAdd s.w.h1 s.w.h2
  .next (s.goTo (s.w.withLanes h.1 h.2) 6)

/-- FMIX (rule R212), the document's Step 6. -/
def execFmix (s : State) : Host.Outcome State Fault Refusal :=
  .next (s.goTo (s.w.withLanes (fmix s.w.h1) (fmix s.w.h2)) 7)

/-- COMBINE (rule R213), the document's Step 7: it also writes the results and ends the run. -/
def execCombine (s : State) : Host.Outcome State Fault Refusal :=
  let h := crossAdd s.w.h1 s.w.h2
  .next (s.complete h.1 h.2)

end Sys2Proof.Machine
end

