-- ==== Sys2Proof/Machine/Sequencer.lean ====
section
/-! DEFINITION. The sequencer's first micro-ops, INIT and BLOCK (rules R171 to R174), the IDLE phase (rule R170) and the
PHASE codes no rule produces (rule R97). -/

namespace Sys2Proof.Machine

/-- IDLE (rules R170, R247): the engine takes no step and keeps its register window; the machine's turn passes with nothing
changed (notes/assumptions/8.md). -/
def execIdle (s : State) : Host.Outcome State Fault Refusal := .next s

/-- INIT (rule R171), the document's Step 1. -/
def execInit (s : State) : Host.Outcome State Fault Refusal :=
  .next (s.goTo { s.w with h1 := s.seedOperand, h2 := s.seedOperand, nb := s.blockCount, blk := 0 }
    (if 0 < s.blockCount.toNat then 2 else 3))

/-- The block loader (rule R172): the 16 bytes of block `i`. -/
def blockLoad (i : Word) (s : State) : Host.Outcome (ReadResult × State) Fault Refusal :=
  memRead (s.blockAddress i) 16 s

/-- The registers after one block round on the 128-bit value `v` of the block's bytes (rule R173): lane 1 with the old lane 2,
then lane 2 with the new lane 1. -/
def State.blockRound (s : State) (v : BitVec 128) : State :=
  let k1 := v.extractLsb' 0 64
  let k2 := v.extractLsb' 64 64
  let h1n := roundH1 s.w.h1 s.w.h2 k1
  let h2n := roundH2 s.w.h2 h1n k2
  let blk := s.w.blk + 1
  s.goTo { s.w with h1 := h1n, h2 := h2n, k1 := k1, k2 := k2, blk := blk } (if blk = s.w.nb then 3 else 2)

/-- BLOCK (rule R173), the document's Step 2; BUS_ERROR if the read fails (rule R232). -/
def execBlock (s : State) : Host.Outcome State Fault Refusal :=
  match blockLoad s.w.blk s with
  | .next (.ok v, s') => .next (s'.blockRound v)
  | .next (.err, s') => .next (s'.stopRun .busError)
  | .fault f => .fault f
  | .refused r => .refused r

/-- A PHASE code of 8 to 15: no rule produces it, and a model that meets one must refuse it (rule R97). -/
def unreachablePhase (_ : State) : Host.Outcome State Fault Refusal := .refused .reservedPhase

/-- PHASE code 0x8 (rule R97). -/
def execPhaseReserved8 (s : State) : Host.Outcome State Fault Refusal := unreachablePhase s
/-- PHASE code 0x9 (rule R97). -/
def execPhaseReserved9 (s : State) : Host.Outcome State Fault Refusal := unreachablePhase s
/-- PHASE code 0xA (rule R97). -/
def execPhaseReservedA (s : State) : Host.Outcome State Fault Refusal := unreachablePhase s
/-- PHASE code 0xB (rule R97). -/
def execPhaseReservedB (s : State) : Host.Outcome State Fault Refusal := unreachablePhase s
/-- PHASE code 0xC (rule R97). -/
def execPhaseReservedC (s : State) : Host.Outcome State Fault Refusal := unreachablePhase s
/-- PHASE code 0xD (rule R97). -/
def execPhaseReservedD (s : State) : Host.Outcome State Fault Refusal := unreachablePhase s
/-- PHASE code 0xE (rule R97). -/
def execPhaseReservedE (s : State) : Host.Outcome State Fault Refusal := unreachablePhase s
/-- PHASE code 0xF (rule R97). -/
def execPhaseReservedF (s : State) : Host.Outcome State Fault Refusal := unreachablePhase s

end Sys2Proof.Machine
end

