-- ==== Sys2Proof/Machine/Tail.lean ====
section
/-! DEFINITION. The tail-byte processor, micro-op TAIL (rules R190 to R196). -/

namespace Sys2Proof.Machine

/-- The registers after TAIL on the value `t` of the `r` tail bytes, zero-extended (rules R191, R192): tail bytes 0 to 7 form
k1, tail bytes 8 on form k2, and each lane takes only its own key's mix. -/
def State.tailFold (s : State) (r : Nat) (t : BitVec 128) : State :=
  let k1 := t.extractLsb' 0 64
  let k2 := if 9 ≤ r then t.extractLsb' 64 64 else 0
  s.goTo
    { s.w with
      k1 := k1
      k2 := k2
      h2 := if 9 ≤ r then xor64 s.w.h2 (tailK2Mix k2) else s.w.h2
      h1 := if 1 ≤ r then xor64 s.w.h1 (mixK1 k1) else s.w.h1 }
    4

/-- TAIL (rule R192), the document's Step 3; no request when there is no tail byte (rule R119), BUS_ERROR if the read fails
(rule R232). -/
def execTail (s : State) : Host.Outcome State Fault Refusal :=
  match memRead s.tailAddress s.remainder s with
  | .next (.ok t, s') => .next (s'.tailFold s.remainder t)
  | .next (.err, s') => .next (s'.stopRun .busError)
  | .fault f => .fault f
  | .refused r => .refused r

end Sys2Proof.Machine
end

