-- ==== Sys2Proof/Machine/Dispatch.lean ====
section
/-! DEFINITION. One arm per row of spec/opcode_table.json (rules R110, R170). -/

namespace Sys2Proof.Machine

def exec (i : Instr) (s : State) : Host.Outcome State Fault Refusal :=
  match i with
  -- host commands (rule R91)
  | .nop => Sys2Proof.Machine.execNop s
  | .hash => Sys2Proof.Machine.execHash s
  | .abort => Sys2Proof.Machine.execAbort s
  | .clear => Sys2Proof.Machine.execClear s
  | .reserved4 => Sys2Proof.Machine.execReserved4 s
  | .reserved5 => Sys2Proof.Machine.execReserved5 s
  | .reserved6 => Sys2Proof.Machine.execReserved6 s
  | .reserved7 => Sys2Proof.Machine.execReserved7 s
  | .reserved8 => Sys2Proof.Machine.execReserved8 s
  | .reserved9 => Sys2Proof.Machine.execReserved9 s
  | .reservedA => Sys2Proof.Machine.execReservedA s
  | .reservedB => Sys2Proof.Machine.execReservedB s
  | .reservedC => Sys2Proof.Machine.execReservedC s
  | .reservedD => Sys2Proof.Machine.execReservedD s
  | .reservedE => Sys2Proof.Machine.execReservedE s
  | .reservedF => Sys2Proof.Machine.execReservedF s
  -- engine micro-ops (rule R93)
  | .idle => Sys2Proof.Machine.execIdle s
  | .init => Sys2Proof.Machine.execInit s
  | .block => Sys2Proof.Machine.execBlock s
  | .tail => Sys2Proof.Machine.execTail s
  | .lfold => Sys2Proof.Machine.execLfold s
  | .xlane => Sys2Proof.Machine.execXlane s
  | .fmix => Sys2Proof.Machine.execFmix s
  | .combine => Sys2Proof.Machine.execCombine s
  -- PHASE codes no rule produces (rule R97)
  | .phaseReserved8 => Sys2Proof.Machine.execPhaseReserved8 s
  | .phaseReserved9 => Sys2Proof.Machine.execPhaseReserved9 s
  | .phaseReservedA => Sys2Proof.Machine.execPhaseReservedA s
  | .phaseReservedB => Sys2Proof.Machine.execPhaseReservedB s
  | .phaseReservedC => Sys2Proof.Machine.execPhaseReservedC s
  | .phaseReservedD => Sys2Proof.Machine.execPhaseReservedD s
  | .phaseReservedE => Sys2Proof.Machine.execPhaseReservedE s
  | .phaseReservedF => Sys2Proof.Machine.execPhaseReservedF s

end Sys2Proof.Machine
end

