-- ==== Sys2Proof/Machine/Digest.lean ====
section
/-! DEFINITION. The pure digest function of rule R216 over a byte sequence and a seed, step by step. No micro-op calls it: it
is what a run must compute (rule R217), and what a run's lanes are for a choice of its bytes (rule R77). -/

namespace Sys2Proof.Machine

/-- The two lanes. -/
abbrev Lanes := Word × Word

/-- The two keys. -/
abbrev Keys := Word × Word

/-- The two keys of block `i`, by `LE64` (rule R216). -/
def digestBlockKeys (bytes : List Byte) (i : Nat) : Keys :=
  (le64 ((bytes.drop (16 * i)).take 8), le64 ((bytes.drop (16 * i + 8)).take 8))

/-- Step 2 for block `i`: the two keys, then the rounds (rule R216). -/
def digestBlock (bytes : List Byte) (h : Lanes) (i : Nat) : Lanes :=
  let k := digestBlockKeys bytes i
  let h1 := roundH1 h.1 h.2 k.1
  (h1, roundH2 h.2 h1 k.2)

/-- Steps 1 and 2 up to and without block `n`. -/
def digestBlocks (bytes : List Byte) (seed : BitVec 32) (n : Nat) : Lanes :=
  (List.range n).foldl (digestBlock bytes) (seed.setWidth 64, seed.setWidth 64)

/-- `Σ_{0≤j<n} zext_64(B[base+j]) << 8j` (rules R191, R216). -/
def keySum (bytes : List Byte) (base : Nat) : Nat → Word
  | 0 => 0
  | n + 1 => add64 (keySum bytes base n) (shl64 ((bytes.getD (base + n) 0).setWidth 64) (8 * n))

/-- The two keys of the tail (rules R191, R216). -/
def digestTailKeys (bytes : List Byte) : Keys :=
  let nb := bytes.length / 16
  let r := bytes.length % 16
  (keySum bytes (16 * nb) (min r 8), keySum bytes (16 * nb + 8) (r - 8))

/-- Step 3, under a reading of TAIL_K2_MIX (rules R155, R216). -/
def digestTail (mix : TailMix) (bytes : List Byte) (h : Lanes) : Lanes :=
  let r := bytes.length % 16
  let k := digestTailKeys bytes
  (if 1 ≤ r then xor64 h.1 (mixK1 k.1) else h.1, if 9 ≤ r then xor64 h.2 (tailK2MixWith mix k.2) else h.2)

/-- Step 4: both lanes take the length (rule R216). -/
def digestLength (bytes : List Byte) (h : Lanes) : Lanes :=
  let n := BitVec.ofNat 64 bytes.length
  (xor64 h.1 n, xor64 h.2 n)

/-- Steps 5 and 7: `h1 + h2`, then `h2 + h1` with the new lane 1 (rule R216). -/
def digestCross (h : Lanes) : Lanes :=
  let h1 := add64 h.1 h.2
  (h1, add64 h.2 h1)

/-- Step 6 (rule R216). -/
def digestFmix (h : Lanes) : Lanes := (fmix h.1, fmix h.2)

/-- `hash128(B, s)` under a reading of TAIL_K2_MIX (rules R155, R216). -/
def hash128With (mix : TailMix) (bytes : List Byte) (seed : BitVec 32) : Lanes :=
  digestCross (digestFmix (digestCross (digestLength bytes
    (digestTail mix bytes (digestBlocks bytes seed (bytes.length / 16))))))

/-- `hash128(B, s)`, the pair `(h1, h2)` (rule R216), with this hardware's TAIL_K2_MIX. -/
def hash128 (bytes : List Byte) (seed : BitVec 32) : Lanes := hash128With tailMixOfThisHardware bytes seed

/-- The lanes rule R216 has for the bytes `bytes` at the line that matches the micro-op to come (rule R217). Before TAIL only the
blocks already taken matter. -/
def State.lanesOn (s : State) (bytes : List Byte) : Lanes :=
  let blocks := digestBlocks bytes s.seed s.w.blk.toNat
  let tail := digestTail tailMixOfThisHardware bytes blocks
  match s.status.phase.toNat with
  | 2 | 3 => blocks
  | 4 => tail
  | 5 => digestLength bytes tail
  | 6 => digestCross (digestLength bytes tail)
  | _ => digestFmix (digestCross (digestLength bytes tail))

/-- The keys the micro-op before the one to come has left for the bytes `bytes`: those of the last block, and from LFOLD on
those of the tail (rules R41, R172, R191). -/
def State.keysOn (s : State) (bytes : List Byte) : Keys :=
  if s.status.phase.toNat ≤ 3 then digestBlockKeys bytes (s.w.blk.toNat - 1) else digestTailKeys bytes

/-- The document's public result, `s64(h1)` (rules R2, R214, R216). -/
def hash128Public (bytes : List Byte) (seed : BitVec 32) : Int := s64 (hash128 bytes seed).1

/-- The 128-bit digest `RESULT_H2 · 2^64 + RESULT` (rule R214). -/
def digest128 (h : Lanes) : Nat := h.2.toNat * 2 ^ 64 + h.1.toNat

end Sys2Proof.Machine
end

