-- ==== Sys2Proof/Machine/Stores.lean ====
section
/-! DEFINITION. An agent's store to the source memory (rules R66, R75, R76), and what a store to the region of a running run
does to the run (rule R77). -/

namespace Sys2Proof.Machine

/-- Insertion into a strictly rising list. -/
def insertRising (a : Nat) : List Nat → List Nat
  | [] => [a]
  | b :: l => if a < b then a :: b :: l else if a = b then b :: l else b :: insertRising a l

/-- How many bytes of the source region the running run has read (rule R70). -/
def State.bytesRead (s : State) : Nat :=
  if s.status.phase.toNat ≤ 1 then 0
  else if s.status.phase = 2 then 16 * s.w.blk.toNat
  else if s.status.phase = 3 then 16 * s.w.nb.toNat
  else s.len.toNat

/-- The run as it stands had it read the bytes `bytes`: their lanes and keys (rules R77, R217). -/
def State.replay (s : State) (bytes : List Byte) : State :=
  let h := s.lanesOn bytes
  let k := s.keysOn bytes
  { s with w := { s.w with h1 := h.1, h2 := h.2, k1 := k.1, k2 := k.2 } }

/-- A byte the run has read was written: what the run read at the written addresses is drawn anew, and the run stands where the
rules bring it on those bytes (rule R77). An address nobody wrote still holds what the run read there. -/
def State.redraw (s : State) : State :=
  ({ s with draws := s.draws + s.bytesRead } : State).replay (s.portBytes s.src.toNat s.bytesRead)

/-- A byte of the running run's region was written: each value the run reads there, or has read there, is unconstrained (rules
R77, R264; DEDUCED, notes/assumptions/6.md). -/
def State.breach (s : State) (a : Nat) : State :=
  let s' := { s with touched := insertRising a s.touched }
  if a - s.src.toNat < s.bytesRead then s'.redraw else s'

/-- Some agent's write of a source byte becomes visible to the port (rules R66, R75 to R77). -/
def storeByte (a : Nat) (v : Byte) (s : State) : Host.Outcome State Fault Refusal :=
  if s.cfg.sourceSize ≤ a then .fault .noSuchSourceAddress
  else if s.cfg.touchesDevice a 1 then .refused .sideEffectingSource
  else
    let s' := { s with mem := s.mem.write a v }
    if s.status.busy && s.inRegion a then .next (s'.breach a) else .next s'

end Sys2Proof.Machine
end

