-- ==== Sys2Proof/Machine/Turns.lean ====
section
/-! DEFINITION. The turns of the agents (rule R20): the engine's step (rule R170), a host register access (rules R61 to R63,
R110, R116, R117), an agent's store and a reset. Each is one atomic step. -/

namespace Sys2Proof.Machine

/-- The word the engine's turn is decoded from: the PHASE code while a run is in progress, else IDLE's, since the engine has a
step only while BUSY is 1 (rules R31, R170). DEDUCED (notes/assumptions/16.md). -/
def State.engineWord (s : State) : List Byte :=
  [if s.status.busy then s.status.phase.setWidth 8 else 0]

/-- Run the instruction that the bytes of a word are. -/
def execWord (f : Format) (bytes : List Byte) (s : State) : Host.Outcome State Fault Refusal :=
  match decode f bytes with
  | .ok i => exec i s
  | .error _ => .refused .undecodable

/-- The engine's turn (rule R170). -/
def engineTurn (s : State) : Host.Outcome State Fault Refusal := execWord .phase s.engineWord s

/-- A host read (rules R61 to R63, R116): the bus returns the slot's value, nothing else changes. -/
def readAccess (addr width : Nat) (s : State) : Host.Outcome State Fault Refusal :=
  match s.cfg.resolve addr width with
  | some (r, part) => .next { s with reply := some (part.select (s.readSlot r)) }
  | none => .refused .registerAccess

/-- A host write (rules R61 to R63, R110, R117): a write that reaches CTRL's command field is a command, a write of CTRL's high
half is ignored, any other replaces the part of its slot. -/
def writeAccess (addr width : Nat) (data : Word) (s : State) : Host.Outcome State Fault Refusal :=
  match s.cfg.resolve addr width with
  | some (.ctrl, .hi) => .next s
  | some (.ctrl, part) => execWord .ctrl (bytesLE part.dataBytes data.toNat) s
  | some (r, part) => .next (s.writeSlot r (part.merge (s.readSlot r) data))
  | none => .refused .registerAccess

/-- A host register access. -/
def accessTurn (a : Access) (s : State) : Host.Outcome State Fault Refusal :=
  match a with
  | .read addr width => readAccess addr width s
  | .write addr width data => writeAccess addr width data s

/-- One event at the machine's edge. -/
def inputTurn (i : Input) (s : State) : Host.Outcome State Fault Refusal :=
  match i with
  | .engine => engineTurn s
  | .access a => accessTurn a s
  | .store addr byte => storeByte addr byte s
  | .reset => .next s.hardwareReset

/-- The machine's next turn: the first pending event, which is taken from the list, or the engine's if none is pending (rules
R20, R270). DESIGN CHOICE (notes/assumptions/7.md). -/
def nextTurn (s : State) : Host.Outcome State Fault Refusal :=
  match s.inputs with
  | [] => engineTurn s
  | i :: rest => inputTurn i { s with inputs := rest }

/-- The state in which the very next turn runs the PHASE micro-op of code `w`: a run in that phase, the engine to move. IDLE is
the phase of no run. -/
def State.placePhase (s : State) (w : Nat) : State :=
  let p := BitVec.ofNat 4 w
  { s with inputs := .engine :: s.inputs, status := { s.status with busy := p != 0, phase := p } }

/-- The state in which the very next turn is the host's write of the command word `w` to CTRL. -/
def State.placeCommand (s : State) (width w : Nat) : State :=
  { s with inputs := .access (.write s.cfg.regBase width (BitVec.ofNat 64 w)) :: s.inputs }

/-- The state in which the very next turn runs the table word `w` of `nbits` bits (notes/assumptions/10.md). -/
def State.placeWord (s : State) (nbits w : Nat) : State :=
  match tableWordFormat nbits with
  | .phase => s.placePhase w
  | .ctrl => s.placeCommand (if nbits = 32 then 32 else 64) w

end Sys2Proof.Machine
end

