-- ==== Sys2Proof/Machine/Step.lean ====
section
/-! DEFINITION. One step of the machine, and how a word is placed for the next step. -/

namespace Sys2Proof.Machine

/-- One step: the next turn of the agents (rule R20). -/
def step (s : State) : Host.Outcome State Fault Refusal := nextTurn s

/-- `s` with the table word `w` placed so that the very next step runs it (notes/assumptions/10.md). -/
def State.withFetchWord (s : State) (nbits w : Nat) : State := s.placeWord nbits w

end Sys2Proof.Machine
end

