-- ==== Sys2Proof/Machine/HostProgram.lean ====
section
/-! DEFINITION. The host program notation (rules R99, R100): the bus access of each line, the expansion of each
pseudo-instruction, and one line of a host program as one host step. Temporaries and branches belong to the host's
processor, not to the engine, so they stand beside the machine's state and not in it. -/

namespace Sys2Proof

/-- The bus access of a line; none for a label or a host branch (rule R99). -/
def HostLine.busAccess (line : HostLine) (c : Config) : Option Access :=
  match line with
  | .wr64 r v => some (.write (c.regBase + r.offset) 64 v)
  | .wr32 r false v => some (.write (c.regBase + r.offset) 32 (v.setWidth 64))
  | .wr32 r true v => some (.write (c.regBase + r.offset + 4) 32 (v.setWidth 64))
  | .rd64 r _ => some (.read (c.regBase + r.offset) 64)
  | .rd32 r false _ => some (.read (c.regBase + r.offset) 32)
  | .rd32 r true _ => some (.read (c.regBase + r.offset + 4) 32)
  | .label _ => none
  | .bnz _ _ _ => none

/-- The poll loop `wait` (rule R100). -/
def waitLines (t l : Nat) : List HostLine := [.label l, .rd64 .status t, .bnz t 0x1 l]

/-- The expansion of a pseudo-instruction (rule R100). -/
def Pseudo.expand : Pseudo → List HostLine
  | .nop => [.wr64 .ctrl 0x0]
  | .hash => [.wr64 .ctrl 0x1]
  | .abort => [.wr64 .ctrl 0x2]
  | .clear => [.wr64 .ctrl 0x3]
  | .wait t l => waitLines t l
  | .hash128 src len seed t l st res =>
    [.wr64 .src src, .wr64 .len len, .wr64 .seed seed, .wr64 .ctrl 0x1] ++ waitLines t l
      ++ [.rd64 .status st, .rd64 .result res]

end Sys2Proof

namespace Sys2Proof.Machine

/-- `hash128`'s result is valid: DONE is 1 and ERR is 0, `st & 0x6 = 0x2` (rule R100). -/
def resultValid (st : Word) : Bool := st &&& 0x6 == 0x2

/-- A host processor that runs a program of host lines. -/
structure HostCpu where
  prog : List HostLine
  pc : Nat
  temps : List (Nat × Word)
deriving DecidableEq, Repr

/-- The value of a host temporary; 0 if nothing has written it (DESIGN CHOICE, notes/assumptions/18.md). -/
def HostCpu.temp (h : HostCpu) (t : Nat) : Word := ((h.temps.find? (fun p => p.1 == t)).map (·.2)).getD 0

/-- The host with one temporary written. -/
def HostCpu.setTemp (h : HostCpu) (t : Nat) (v : Word) : HostCpu :=
  { h with temps := (t, v) :: h.temps.filter (fun p => p.1 != t) }

/-- The position of a label: its first line if it stands more than once, the end of the program if it has none (DESIGN CHOICE,
notes/assumptions/18.md). -/
def HostCpu.labelAt (h : HostCpu) (l : Nat) : Nat := h.prog.findIdx (fun x => x == .label l)

/-- The host at its next line. -/
def HostCpu.advance (h : HostCpu) : HostCpu := { h with pc := h.pc + 1 }

/-- The host after a read has returned: the reply goes to the line's temporary. -/
def HostCpu.takeReply (h : HostCpu) (line : HostLine) (reply : Option Word) : HostCpu :=
  match line, reply with
  | .rd64 _ t, some v => h.setTemp t v
  | .rd32 _ _ t, some v => h.setTemp t v
  | _, _ => h

/-- One line of the host's program (rule R99): a bus access is one host step of the machine, a label and a branch are the
host's own. `none` when the program has ended. -/
def HostCpu.step (h : HostCpu) (s : State) : Option (Host.Outcome (HostCpu × State) Fault Refusal) :=
  match h.prog[h.pc]? with
  | none => none
  | some (.label _) => some (.next (h.advance, s))
  | some (.bnz t mask l) =>
    some (.next (if h.temp t &&& mask ≠ 0 then ({ h with pc := h.labelAt l }, s) else (h.advance, s)))
  | some line =>
    match line.busAccess s.cfg with
    | none => some (.next (h.advance, s))
    | some a =>
      match accessTurn a s with
      | .next s' => some (.next ((h.advance.takeReply line s'.reply), s'))
      | .fault f => some (.fault f)
      | .refused r => some (.refused r)

end Sys2Proof.Machine
end

