-- ==== Sys2Proof/Safety.lean ====
section
/-! DEFINITION. What counts as a safe state and a safe turn, in the terms the claims use: the STATUS invariants of rule R30, the
invariant of a run, the host's duties, and what a run's lanes must hold (rule R217). -/

namespace Sys2Proof.Machine

/-- The invariants of the STATUS fields (rule R30). -/
structure Status.Legal (st : Status) : Prop where
  /-- (a) -/
  running : st.busy = true →
    st.done = false ∧ st.err = false ∧ st.errcode = .none ∧ 1 ≤ st.phase.toNat ∧ st.phase.toNat ≤ 7
  /-- (b) -/
  idle : st.busy = false → st.phase = 0
  /-- (c) -/
  done : st.done = true → st.err = false
  /-- (d) -/
  noError : st.err = false → st.errcode = .none
  /-- (d) -/
  error : st.err = true → st.errcode ≠ .none

/-- The invariant of the machine: the STATUS invariants (rule R30), the memory's canonical form inside the source space (rule
R66), a running run's region inside the space and ordinary (rules R70, R72), and the block counters (rules R42, R174). -/
structure State.Inv (s : State) : Prop where
  status : s.status.Legal
  memory : s.mem.wf = true
  memoryInside : ∀ c ∈ s.mem, c.1 < s.cfg.sourceSize
  touchedRising : s.touched.Pairwise (· < ·)
  regionFits : s.status.busy = true → s.regionInvalid = false
  regionOrdinary : s.status.busy = true → s.cfg.touchesDevice s.src.toNat s.len.toNat = false
  blockCount : s.status.busy = true → s.status.phase ≠ 1 → s.w.nb = s.blockCount
  blocksLeft : s.status.busy = true → s.status.phase = 2 → s.w.blk.toNat < s.w.nb.toNat
  blocksDone : s.status.busy = true → 3 ≤ s.status.phase.toNat → s.w.blk = s.w.nb

/-- The bytes of the source region as the memory holds them (rule R217). -/
def State.regionBytes (s : State) : List Byte := s.mem.bytes s.src.toNat s.len.toNat

/-- The lanes rule R216 has for the region's bytes at the line that matches the micro-op to come (rule R217). -/
def State.expectedLanes (s : State) : Lanes := s.lanesOn s.regionBytes

/-- While a run is past INIT and no byte of its region was written during it, its lanes are rule R216's (rule R217). -/
def State.LanesMatch (s : State) : Prop :=
  s.status.busy = true → s.touched = [] → s.status.phase ≠ 1 → (s.w.h1, s.w.h2) = s.expectedLanes

/-- A choice of the region's bytes that keeps every byte no agent wrote during the run (rule R77). -/
def State.IsChoice (s : State) (bytes : List Byte) : Prop :=
  bytes.length = s.len.toNat ∧
  ∀ i, i < s.len.toNat → s.src.toNat + i ∉ s.touched → bytes.getD i 0 = s.mem.read (s.src.toNat + i)

/-- While a run is past INIT, its lanes are rule R216's for some choice of the bytes written during it (rule R77). -/
def State.LanesFitAChoice (s : State) : Prop :=
  s.status.busy = true → s.status.phase ≠ 1 → ∃ bytes, s.IsChoice bytes ∧ (s.w.h1, s.w.h2) = s.lanesOn bytes

/-- The port never answers `Err` to the requests to come: it cannot fail, or no pending answer is `Err` (rules R217, R232). -/
def State.PortStaysOk (s : State) : Prop :=
  s.cfg.portCanFail = false ∨ ∀ a ∈ s.portAnswers, a = .ok

/-- The next turn is one the spec gives a step: a host access of rules R61 and R62, a store to an existing ordinary source byte
(rules R66, R72), the engine's, or a reset. -/
def State.NextTurnAllowed (s : State) : Prop :=
  match s.inputs with
  | .access a :: _ => a.wf s.cfg.regBase = true
  | .store a _ :: _ => a < s.cfg.sourceSize ∧ s.cfg.touchesDevice a 1 = false
  | .engine :: _ => True
  | .reset :: _ => True
  | [] => True

/-- The next turn is not a reset. -/
def State.NextTurnNoReset (s : State) : Prop := ∀ rest, s.inputs ≠ .reset :: rest

/-- The next turn is the engine's (rules R20, R170). -/
def State.EngineMoves (s : State) : Prop := s.inputs = [] ∨ ∃ rest, s.inputs = .engine :: rest

/-- The next turn runs the instruction `i`: a host write whose command field is `i`'s code (rules R90, R110), or the engine's turn
of a run in `i`'s phase (rule R170). -/
def State.NextTurnRuns (s : State) (i : Instr) : Prop :=
  match i.format with
  | .ctrl => ∃ width v rest, s.inputs = .access (.write s.cfg.regBase width v) :: rest ∧ (width = 64 ∨ width = 32) ∧
      v.extractLsb' 0 4 = i.code
  | .phase => s.EngineMoves ∧ s.status.busy = true ∧ s.status.phase = i.code

/-- The state once the next turn has been taken from the list of pending events. -/
def State.turnTaken (s : State) : State := { s with inputs := s.inputs.tail }

/-- Two states that no later host access can tell apart: equal but for working registers that no rule reads before a micro-op
writes them (rules R43, R45). -/
def SameObservably (s t : State) : Prop :=
  t = { s with w := t.w } ∧
  (s.status.busy = true → s.status.phase ≠ 1 →
    s.w.h1 = t.w.h1 ∧ s.w.h2 = t.w.h2 ∧ s.w.nb = t.w.nb ∧ s.w.blk = t.w.blk)

/-- Two outcomes that agree: next states that no host access can tell apart, or the same stop. -/
def SameOutcome : Host.Outcome State Fault Refusal → Host.Outcome State Fault Refusal → Prop
  | .next s, .next t => SameObservably s t
  | .fault f, .fault g => f = g
  | .refused r, .refused q => r = q
  | _, _ => False

end Sys2Proof.Machine
end

