-- ==== Sys2Proof/Certificates/Slice0/Obligations.lean ====
section
/-! DEFINITION. The statements about the digest engine, from the numbered rules of spec/. Where a rule leaves a value
unspecified (the working registers after a stopped run, a byte written during a run), the statement leaves it unconstrained:
it holds for every value of the free values. -/

open Sys2Proof Sys2Proof.Machine

/-! ### Encoding -/

/-- Decode and encode agree on every row and every bit of a word: the encoder's word of each instruction is well formed and decodes
back to it, a CTRL word of 64 or 32 bits decodes to exactly the command of its bits 3:0 whatever its ignored bits hold (rules
R90, R91, R96), and a byte to exactly the micro-op whose PHASE code it is (rule R93). -/
def Obligations.DecodeOfEncode : Prop :=
  (∀ i : Instr, i.wf → wordWf i.format (encode i) = true ∧ decode i.format (encode i) = .ok i) ∧
  (∀ (i : Instr) (v : Word), decode .ctrl (bytesLE 8 v.toNat) = .ok i ↔ i.format = .ctrl ∧ i.code = v.extractLsb' 0 4) ∧
  (∀ (i : Instr) (v : Word), decode .ctrl (bytesLE 4 v.toNat) = .ok i ↔ i.format = .ctrl ∧ i.code = v.extractLsb' 0 4) ∧
  (∀ (i : Instr) (b : Byte), decode .phase [b] = .ok i ↔ i.format = .phase ∧ b = i.code.setWidth 8)

/-- Words written out bit by bit from rules R90, R91 and R93, with ignored bits set in some, decode to the rows they are. The last two
clauses, a PHASE byte of more than four bits and a CTRL word of two bytes refused by name, are the model's choice
(notes/assumptions/22.md). -/
def Obligations.SpecWordsDecode : Prop :=
  decode .ctrl [0b00000000, 0, 0, 0, 0, 0, 0, 0] = .ok .nop ∧
  decode .ctrl [0b00000001, 0, 0, 0, 0, 0, 0, 0] = .ok .hash ∧
  decode .ctrl [0b11110010, 0xFF, 0xFF, 0xFF] = .ok .abort ∧
  decode .ctrl [0b01010011, 0xFF, 0, 0, 0, 0, 0, 0x80] = .ok .clear ∧
  decode .ctrl [0b00001001, 0, 0, 0] = .ok .reserved9 ∧
  decode .phase [0b00000000] = .ok .idle ∧
  decode .phase [0b00000010] = .ok .block ∧
  decode .phase [0b00000111] = .ok .combine ∧
  decode .phase [0b00001111] = .ok .phaseReservedF ∧
  decode .phase [0b00010000] = .error (.phaseWidth 0b00010000) ∧
  decode .ctrl [0b00000001, 0] = .error (.ctrlLength 2)

/-- Rules R96 and R98: what a write to CTRL does depends on its CMD field alone, whatever the ignored bits hold and whether 64 or
32 bits are written. -/
def Obligations.CommandBitsAlone : Prop :=
  ∀ (s : State) (rest : List Input) (v v' : Word), v.extractLsb' 0 4 = v'.extractLsb' 0 4 →
    step { s with inputs := .access (.write s.cfg.regBase 64 v) :: rest } =
      step { s with inputs := .access (.write s.cfg.regBase 64 v') :: rest } ∧
    step { s with inputs := .access (.write s.cfg.regBase 64 v) :: rest } =
      step { s with inputs := .access (.write s.cfg.regBase 32 v') :: rest }

/-- A step runs the decoded instruction: on the engine's turn the micro-op the PHASE code names while BUSY is 1 (rule R170), and on a
host write to CTRL's command field the command the word decodes to (rule R110). That the engine's turn while BUSY is 0, to
which rule R170 gives no step, runs IDLE whatever PHASE holds is the model's choice (notes/assumptions/8.md, 16.md), and so is
the list of pending events the turn is first taken from (notes/assumptions/7.md). -/
def Obligations.StepRunsDecodedInstruction : Prop :=
  (∀ (s : State) (i : Instr), s.EngineMoves → s.status.busy = true →
    decode .phase [s.status.phase.setWidth 8] = .ok i → step s = exec i s.turnTaken) ∧
  (∀ s : State, s.EngineMoves → s.status.busy = false → step s = exec .idle s.turnTaken) ∧
  (∀ (s : State) (i : Instr) (v : Word) (rest : List Input),
    s.inputs = .access (.write s.cfg.regBase 64 v) :: rest →
    decode .ctrl (bytesLE 8 v.toNat) = .ok i → step s = exec i s.turnTaken) ∧
  (∀ (s : State) (i : Instr) (v : Word) (rest : List Input),
    s.inputs = .access (.write s.cfg.regBase 32 v) :: rest →
    decode .ctrl (bytesLE 4 v.toNat) = .ok i → step s = exec i s.turnTaken)

/-- A word placed by withFetchWord is what the very next step runs: a command at the state itself, a micro-op at the state whose
STATUS is in its phase (notes/assumptions/10.md). -/
def Obligations.PlacedWordRunsNext : Prop :=
  ∀ (s : State) (i : Instr),
    step (s.withFetchWord (8 * (encode i).length) i.code.toNat) =
      match i.format with
      | .ctrl => exec i s
      | .phase => exec i { s with status := { s.status with busy := i.code != 0, phase := i.code } }

/-! ### Host commands -/

/-- Rule R111: NOP leaves every register unchanged. -/
def Obligations.NopChangesNothing : Prop :=
  (∀ s : State, exec .nop s = .next s) ∧
  ∀ (s : State) (rest : List Input),
    step { s with inputs := .access (.write s.cfg.regBase 64 0) :: rest } = .next { s with inputs := rest }

/-- Rule R112, with rule R236's error entry: HASH is ignored while BUSY; when idle it raises INVALID_INPUT exactly if `LEN > 0` and
`SRC + LEN > 2^ADDR_W`, and otherwise starts a run on an ordinary region, clearing DONE, ERR and ERRCODE. Nothing else changes
(the model's own list of touched bytes starts empty). That a rejected HASH keeps the working registers is rule R112's word. -/
def Obligations.HashCommand : Prop :=
  (∀ s : State, s.status.busy = true → exec .hash s = .next s) ∧
  (∀ s : State, s.status.busy = false → 0 < s.len.toNat → 2 ^ s.cfg.addrW < s.src.toNat + s.len.toNat →
    ∃ t, exec .hash s = .next t ∧ t = { s with status := t.status } ∧ t.status.toWord = 0x14) ∧
  (∀ s : State, s.status.busy = false → (s.len.toNat = 0 ∨ s.src.toNat + s.len.toNat ≤ 2 ^ s.cfg.addrW) →
    s.cfg.touchesDevice s.src.toNat s.len.toNat = false →
    ∃ t, exec .hash s = .next t ∧ t = { s with status := t.status, touched := [] } ∧ t.status.toWord = 0x101)

/-- Rule R72: a run over a region that is not ordinary memory is refused. -/
def Obligations.HashRefusesDeviceRegion : Prop :=
  ∀ s : State, s.status.busy = false → s.src.toNat + s.len.toNat ≤ 2 ^ s.cfg.addrW →
    (∃ r ∈ s.cfg.devices, ∃ a, s.src.toNat ≤ a ∧ a < s.src.toNat + s.len.toNat ∧ r.base ≤ a ∧ a < r.base + r.size) →
    exec .hash s = .refused .sideEffectingSource

/-- Rule R113: ABORT stops a running run with STATUS 0x34 and no result, and does nothing when idle. The working registers are
unspecified afterwards. -/
def Obligations.AbortCommand : Prop :=
  (∀ s : State, s.status.busy = true →
    ∃ t, exec .abort s = .next t ∧ t.status.toWord = 0x34 ∧
      t = { s with status := t.status, w := t.w, draws := t.draws }) ∧
  (∀ s : State, s.status.busy = false → exec .abort s = .next s)

/-- Rule R114: CLEAR is ignored while BUSY; when idle it clears DONE, ERR and ERRCODE and changes nothing else, so that STATUS
reads 0 in a state that keeps rule R30. -/
def Obligations.ClearCommand : Prop :=
  (∀ s : State, s.status.busy = true → exec .clear s = .next s) ∧
  (∀ s : State, s.status.busy = false →
    exec .clear s = .next { s with status := { s.status with done := false, err := false, errcode := .none } }) ∧
  (∀ s : State, s.status.busy = false → s.status.Legal → ∃ t, exec .clear s = .next t ∧ t.status.toWord = 0)

/-- Rules R115 and R234: each of the twelve reserved commands raises ILLEGAL_CMD when idle (STATUS 0x44, nothing else changed) and is
ignored while BUSY. Error entry (rule R236) leaves the working registers unspecified; that this rejection keeps them is rule
R237, an inference the spec marks as its own. -/
def Obligations.ReservedCommands : Prop :=
  ∀ i ∈ [Instr.reserved4, .reserved5, .reserved6, .reserved7, .reserved8, .reserved9, .reservedA, .reservedB, .reservedC,
      .reservedD, .reservedE, .reservedF],
    (∀ s : State, s.status.busy = true → exec i s = .next s) ∧
    (∀ s : State, s.status.busy = false →
      ∃ t, exec i s = .next t ∧ t = { s with status := t.status } ∧ t.status.toWord = 0x44)

/-! ### Micro-ops -/

/-- Rule R170 (with rule R247): with PHASE IDLE the engine has no step; its turn changes nothing. -/
def Obligations.IdleKeepsEverything : Prop := ∀ s : State, exec .idle s = .next s

/-- Rule R171: INIT zero-extends the seed into both lanes, takes the block count `LEN >>> 4` and names BLOCK or TAIL next; nothing else
changes. -/
def Obligations.InitMicroOp : Prop :=
  ∀ s : State, exec .init s = .next
    { s with
      w := { s.w with h1 := s.seed.setWidth 64, h2 := s.seed.setWidth 64, nb := s.len >>> 4, blk := 0 }
      status := { s.status with phase := if 16 ≤ s.len.toNat then 2 else 3 } }

/-- Rules R172 and R173: when the port answers, BLOCK forms its keys by LE64 of the 16 bytes at `SRC + 16·blk`, does the lane-1 round
with the old lane 2 and the lane-2 round with the new lane 1, and counts the block; the one request is for those 16 bytes and
nothing else changes. When the port answers `Err` it raises BUS_ERROR (STATUS 0x24), and the working registers are unspecified
(rule R236). -/
def Obligations.BlockMicroOp : Prop :=
  ∀ s : State, s.src.toNat + 16 * s.w.blk.toNat + 16 ≤ 2 ^ s.cfg.addrW →
    s.cfg.touchesDevice (s.src.toNat + 16 * s.w.blk.toNat) 16 = false →
    (s.nextAnswer = .ok → ∃ t, exec .block s = .next t ∧
      t.w.k1 = le64 ((s.portBytes (s.src.toNat + 16 * s.w.blk.toNat) 16).take 8) ∧
      t.w.k2 = le64 ((s.portBytes (s.src.toNat + 16 * s.w.blk.toNat) 16).drop 8) ∧
      t.w.h1 = roundH1 s.w.h1 s.w.h2 t.w.k1 ∧
      t.w.h2 = roundH2 s.w.h2 t.w.h1 t.w.k2 ∧
      t.w.blk = s.w.blk + 1 ∧ t.w.nb = s.w.nb ∧
      t = { s with
        w := t.w
        status := { s.status with phase := if s.w.blk + 1 = s.w.nb then 3 else 2 }
        portAnswers := s.portAnswers.tail
        request := some { addr := s.src.toNat + 16 * s.w.blk.toNat, count := 16 }
        draws := t.draws }) ∧
    (s.nextAnswer = .err → ∃ t, exec .block s = .next t ∧ t.status.toWord = 0x24 ∧
      t = { s with
        status := t.status
        w := t.w
        portAnswers := s.portAnswers.tail
        request := some { addr := s.src.toNat + 16 * s.w.blk.toNat, count := 16 }
        draws := t.draws })

/-- Rule R192: with no tail byte, or when the port answers, TAIL forms its keys by LE64 of the tail bytes, folds mixK1 of k1 into lane 1
if `r ≥ 1` and mixK1 of k2 into lane 2 if `r ≥ 9`, and names LFOLD next; it requests the `r` tail bytes, or makes no request if
`r = 0`, and nothing else changes. When the port answers `Err` it raises BUS_ERROR (STATUS 0x24), and the working registers are
unspecified (rule R236). -/
def Obligations.TailMicroOp : Prop :=
  ∀ s : State,
    (0 < s.len.toNat % 16 →
      s.src.toNat + 16 * s.w.nb.toNat + s.len.toNat % 16 ≤ 2 ^ s.cfg.addrW ∧
      s.cfg.touchesDevice (s.src.toNat + 16 * s.w.nb.toNat) (s.len.toNat % 16) = false) →
    (s.len.toNat % 16 = 0 ∨ s.nextAnswer = .ok → ∃ t, exec .tail s = .next t ∧
      t.w.k1 = le64 ((s.portBytes (s.src.toNat + 16 * s.w.nb.toNat) (s.len.toNat % 16)).take 8) ∧
      t.w.k2 = le64 ((s.portBytes (s.src.toNat + 16 * s.w.nb.toNat) (s.len.toNat % 16)).drop 8) ∧
      t.w.h1 = (if 1 ≤ s.len.toNat % 16 then s.w.h1 ^^^ mixK1 t.w.k1 else s.w.h1) ∧
      t.w.h2 = (if 9 ≤ s.len.toNat % 16 then s.w.h2 ^^^ mixK1 t.w.k2 else s.w.h2) ∧
      t.w.nb = s.w.nb ∧ t.w.blk = s.w.blk ∧
      t = { s with
        w := t.w
        status := { s.status with phase := 4 }
        portAnswers := if s.len.toNat % 16 = 0 then s.portAnswers else s.portAnswers.tail
        request := if s.len.toNat % 16 = 0 then s.request
          else some { addr := s.src.toNat + 16 * s.w.nb.toNat, count := s.len.toNat % 16 }
        draws := t.draws }) ∧
    (0 < s.len.toNat % 16 → s.nextAnswer = .err → ∃ t, exec .tail s = .next t ∧ t.status.toWord = 0x24 ∧
      t = { s with
        status := t.status
        w := t.w
        portAnswers := s.portAnswers.tail
        request := some { addr := s.src.toNat + 16 * s.w.nb.toNat, count := s.len.toNat % 16 }
        draws := t.draws })

/-- Rule R210: LFOLD folds the whole 64-bit length into both lanes; nothing else changes but PHASE. -/
def Obligations.LfoldMicroOp : Prop :=
  ∀ s : State, exec .lfold s = .next
    { s with
      w := { s.w with h1 := s.w.h1 ^^^ s.len, h2 := s.w.h2 ^^^ s.len }
      status := { s.status with phase := 5 } }

/-- Rule R211: XLANE gives `h1' = h1 + h2` and `h2' = h1 + 2·h2` modulo `2^64`, the second form being the spec's own inference from
its pseudocode; nothing else changes but PHASE. -/
def Obligations.XlaneMicroOp : Prop :=
  ∀ s : State, exec .xlane s = .next
    { s with
      w := { s.w with h1 := s.w.h1 + s.w.h2, h2 := s.w.h1 + 2 * s.w.h2 }
      status := { s.status with phase := 6 } }

/-- Rule R212: FMIX replaces each lane by its fmix (Obligations.FmixBijective says which function that is); nothing else changes but
PHASE. -/
def Obligations.FmixMicroOp : Prop :=
  ∀ s : State, exec .fmix s = .next
    { s with
      w := { s.w with h1 := fmix s.w.h1, h2 := fmix s.w.h2 }
      status := { s.status with phase := 7 } }

/-- Rule R213: COMBINE adds across the lanes as XLANE does, writes them to RESULT and RESULT_H2, sets DONE and ends the run, in one step;
nothing else changes. -/
def Obligations.CombineMicroOp : Prop :=
  ∀ s : State, exec .combine s = .next
    { s with
      w := { s.w with h1 := s.w.h1 + s.w.h2, h2 := s.w.h2 + (s.w.h1 + s.w.h2) }
      result := s.w.h1 + s.w.h2
      resultH2 := s.w.h2 + (s.w.h1 + s.w.h2)
      status := { s.status with busy := false, done := true, phase := 0 } }

/-- Rule R97: a model that meets a PHASE code of 8 to 15 refuses it, and no step from another PHASE code produces one. -/
def Obligations.ReservedPhasesRefused : Prop :=
  (∀ i ∈ [Instr.phaseReserved8, .phaseReserved9, .phaseReservedA, .phaseReservedB, .phaseReservedC, .phaseReservedD,
      .phaseReservedE, .phaseReservedF], ∀ s : State, exec i s = .refused .reservedPhase) ∧
  (∀ s : State, s.EngineMoves → s.status.busy = true → 8 ≤ s.status.phase.toNat → step s = .refused .reservedPhase) ∧
  (∀ s t : State, s.status.phase.toNat < 8 → step s = .next t → t.status.phase.toNat < 8)

/-! ### The datapath -/

/-- Rules R144, R145 and R146: XOR64 bit by bit, ADD64 and MUL64 modulo `2^64`. -/
def Obligations.UnitsAddMulXor : Prop :=
  ∀ a b : Word,
    (∀ i, i < 64 → (xor64 a b).getLsbD i = (a.getLsbD i != b.getLsbD i)) ∧
    (add64 a b).toNat = (a.toNat + b.toNat) % 2 ^ 64 ∧
    (mul64 a b).toNat = (a.toNat * b.toNat) % 2 ^ 64

/-- Rule R147: the shifts bit by bit; the right shift is logical, and a shift by 64 or more gives 0. -/
def Obligations.UnitsShift : Prop :=
  ∀ (x : Word) (n : Nat),
    (∀ i, i < 64 → (shl64 x n).getLsbD i = (decide (n ≤ i) && x.getLsbD (i - n))) ∧
    (∀ i, i < 64 → (shr64 x n).getLsbD i = (decide (i + n < 64) && x.getLsbD (i + n))) ∧
    (64 ≤ n → shl64 x n = 0 ∧ shr64 x n = 0)

/-- Rule R148: `rotl64(x, r)[i] = x[(i - r) mod 64]` for every amount below 64, 0 among them. -/
def Obligations.UnitsRotate : Prop :=
  ∀ (x : Word) (r i : Nat), r < 64 → i < 64 → (rotl64 x r).getLsbD i = x.getLsbD ((i + (64 - r)) % 64)

/-- Rules R149 and R150: mixK1 is `k * C1`, rotated by 31, `* C2`; mixK2 is `k * C2`, rotated by 33, `* C1`; both map 0 to 0 and are
bijections on 64-bit values. -/
def Obligations.KeyMixesBijective : Prop :=
  (∀ k : Word, mixK1 k = (k * 0x87C37B91114253D5).rotateLeft 31 * 0x4CF5AD432745937F) ∧ mixK1 0 = 0 ∧
  Function.Bijective mixK1 ∧
  (∀ k : Word, mixK2 k = (k * 0x4CF5AD432745937F).rotateLeft 33 * 0x87C37B91114253D5) ∧ mixK2 0 = 0 ∧
  Function.Bijective mixK2

/-- Rules R151 and R152: the two block rounds as the document's lines. -/
def Obligations.BlockRounds : Prop :=
  (∀ h1 h2 k1 : Word, roundH1 h1 h2 k1 = ((h1 ^^^ mixK1 k1).rotateLeft 27 + h2) * 5 + 0x52DCE729) ∧
  (∀ h2 h1n k2 : Word, roundH2 h2 h1n k2 = ((h2 ^^^ mixK2 k2).rotateLeft 31 + h1n) * 5 + 0x38495AB5)

/-- Rules R142 and R153: fmix is rule R153's five lines with the two multipliers of rule R142; it maps 0 to 0 and is a bijection, and
its shift step is `x ^ (x >>> 33)` and its own inverse. -/
def Obligations.FmixBijective : Prop :=
  (∀ x : Word, fmix x =
    let x := x ^^^ x >>> 33
    let x := x * 0xFF51AFD7ED558CCD
    let x := x ^^^ x >>> 33
    let x := x * 0xC4CEB9FE1A85EC53
    x ^^^ x >>> 33) ∧
  fmix 0 = 0 ∧ Function.Bijective fmix ∧
  ∀ x : Word, xorShift33 x = x ^^^ x >>> 33 ∧ xorShift33 (xorShift33 x) = x

/-- Rules R7 and R214: `s64(v)` is `v` below `2^63` and `v - 2^64` from there on, the two's-complement reading. -/
def Obligations.SignedReading : Prop :=
  ∀ v : Word, s64 v = v.toInt ∧ s64 v = if v.toNat < 2 ^ 63 then (v.toNat : Int) else (v.toNat : Int) - 2 ^ 64

/-- Rule R155 and 90_conflicts.md C3: the two readings of TAIL_K2_MIX give the same digest for every input whose length is 0 to 8
modulo 16, and this hardware's is mixK1. -/
def Obligations.TailReadingsAgreeBelowNine : Prop :=
  (∀ k : Word, tailK2Mix k = mixK1 k) ∧
  ∀ (bytes : List Byte) (seed : BitVec 32), bytes.length % 16 ≤ 8 → hash128With .mixK2 bytes seed = hash128 bytes seed

/-! ### Bytes and keys -/

/-- Rules R9 and R67: a read that answers `Ok(v)` gives the byte at `a + j` as `v[8j+7:8j]`, and 0 above the bytes read. -/
def Obligations.PortValueLittleEndian : Prop :=
  ∀ (s t : State) (a n : Nat) (v : BitVec 128), n ≤ 16 → memRead a n s = .next (.ok v, t) →
    (∀ j, j < n → v.extractLsb' (8 * j) 8 = s.portByte (s.draws + j) (a + j)) ∧ v.toNat < 2 ^ (8 * n)

/-- Rule R191: a TAIL that does not fail puts tail byte `j` at bits `8j+7:8j` of k1 for `j < 8` and at bits `8(j-8)+7:8(j-8)` of k2 for
`j ≥ 8`; every byte position that gets no tail byte is 0. -/
def Obligations.TailBytePlacement : Prop :=
  ∀ s t : State, s.status.busy = true → exec .tail s = .next t → t.status.busy = true →
    (∀ j, j < 8 → t.w.k1.extractLsb' (8 * j) 8 =
      if j < s.len.toNat % 16 then s.portByte (s.draws + j) (s.src.toNat + 16 * s.w.nb.toNat + j) else 0) ∧
    (∀ j, j < 8 → t.w.k2.extractLsb' (8 * j) 8 =
      if j + 8 < s.len.toNat % 16 then s.portByte (s.draws + (j + 8)) (s.src.toNat + 16 * s.w.nb.toNat + (j + 8)) else 0)

/-- Rule R194: folding both keys at every TAIL gives the same lanes as folding them only if `r ≥ 1` and `r ≥ 9`. -/
def Obligations.TailFoldsUnconditional : Prop :=
  ∀ s t : State, s.status.busy = true → exec .tail s = .next t → t.status.busy = true →
    t.w.h1 = s.w.h1 ^^^ mixK1 t.w.k1 ∧ t.w.h2 = s.w.h2 ^^^ tailK2Mix t.w.k2

/-! ### STATUS and the register window -/

/-- Rules R29 and R92: the fields of the STATUS word, with bit 3 and bits 63:12 zero. -/
def Obligations.StatusWordFields : Prop :=
  ∀ st : Status,
    st.toWord.getLsbD 0 = st.busy ∧ st.toWord.getLsbD 1 = st.done ∧ st.toWord.getLsbD 2 = st.err ∧
    st.toWord.getLsbD 3 = false ∧ st.toWord.extractLsb' 4 4 = st.errcode.code ∧
    st.toWord.extractLsb' 8 4 = st.phase ∧ st.toWord.extractLsb' 12 52 = 0

/-- Rules R61, R22 and R116: an aligned 64-bit read of a slot returns the slot's value as rules R23 to R37 give it, and changes nothing
(the bus reply apart). -/
def Obligations.WholeSlotReads : Prop :=
  ∀ (s : State) (rest : List Input),
    let reads := fun (offset : Nat) (v : Word) =>
      step { s with inputs := .access (.read (s.cfg.regBase + offset) 64) :: rest } =
        .next { s with inputs := rest, reply := some v }
    reads 0x00 0 ∧ reads 0x08 s.status.toWord ∧ reads 0x10 (s.seed.setWidth 64) ∧ reads 0x18 s.len ∧
    reads 0x20 s.src ∧ reads 0x28 s.result ∧ reads 0x30 s.resultH2 ∧ reads 0x38 0

/-- Rules R62 and R64: a 32-bit read at `8k` returns bits 31:0 of the slot and one at `8k + 4` bits 63:32, and the two halves make the
slot's value. -/
def Obligations.HalfSlotReads : Prop :=
  ∀ (s : State) (rest : List Input) (r : Slot), ∃ lo hi : Word,
    step { s with inputs := .access (.read (s.cfg.regBase + r.offset) 32) :: rest } =
      .next { s with inputs := rest, reply := some lo } ∧
    step { s with inputs := .access (.read (s.cfg.regBase + r.offset + 4) 32) :: rest } =
      .next { s with inputs := rest, reply := some hi } ∧
    lo.toNat < 2 ^ 32 ∧ hi.toNat < 2 ^ 32 ∧ (s.readSlot r).toNat = hi.toNat * 2 ^ 32 + lo.toNat

/-- Rules R117, R38 and R62: when idle, a 64-bit write replaces SEED's low half, LEN or SRC, and a 32-bit write its half of LEN or SRC, or
SEED's low half. While BUSY those writes change nothing. A write of STATUS, RESULT, RESULT_H2 or the reserved slot, of either width,
and a 32-bit write at CTRL's or SEED's high half never change anything. -/
def Obligations.RegisterWrites : Prop :=
  ∀ (s : State) (rest : List Input) (v : Word),
    let writes := fun (offset width : Nat) (t : State) =>
      step { s with inputs := .access (.write (s.cfg.regBase + offset) width v) :: rest } = .next { t with inputs := rest }
    let lo := v.extractLsb' 0 32
    (s.status.busy = false →
      writes 0x10 64 { s with seed := lo } ∧ writes 0x18 64 { s with len := v } ∧ writes 0x20 64 { s with src := v } ∧
      writes 0x10 32 { s with seed := lo } ∧
      writes 0x18 32 { s with len := s.len.extractLsb' 32 32 ++ lo } ∧
      writes 0x1C 32 { s with len := lo ++ s.len.extractLsb' 0 32 } ∧
      writes 0x20 32 { s with src := s.src.extractLsb' 32 32 ++ lo } ∧
      writes 0x24 32 { s with src := lo ++ s.src.extractLsb' 0 32 }) ∧
    (s.status.busy = true →
      writes 0x10 64 s ∧ writes 0x18 64 s ∧ writes 0x20 64 s ∧
      writes 0x10 32 s ∧ writes 0x18 32 s ∧ writes 0x1C 32 s ∧ writes 0x20 32 s ∧ writes 0x24 32 s) ∧
    writes 0x08 64 s ∧ writes 0x28 64 s ∧ writes 0x30 64 s ∧ writes 0x38 64 s ∧
    writes 0x04 32 s ∧ writes 0x14 32 s ∧ writes 0x08 32 s ∧ writes 0x0C 32 s ∧ writes 0x28 32 s ∧ writes 0x2C 32 s ∧
    writes 0x30 32 s ∧ writes 0x34 32 s ∧ writes 0x38 32 s ∧ writes 0x3C 32 s

/-- Rule R63: an access of the register window with a width other than 32 or 64 bits, at an offset that is not a multiple of the width,
across two slots, or at an offset of 0x40 or more is refused: the host has no step. -/
def Obligations.OtherAccessesRefused : Prop :=
  ∀ (s : State) (rest : List Input) (a : Access), s.cfg.regBase ≤ a.addr →
    (a.width ≠ 64 ∧ a.width ≠ 32) ∨ (a.addr - s.cfg.regBase) % (a.width / 8) ≠ 0 ∨
      (a.addr - s.cfg.regBase) / 8 ≠ (a.addr - s.cfg.regBase + a.width / 8 - 1) / 8 ∨ s.cfg.regBase + 0x40 ≤ a.addr →
    step { s with inputs := .access a :: rest } = .refused .registerAccess

/-! ### Rules about the whole machine -/

/-- Rule R66: the engine never writes any memory. Only an agent's store changes a source byte. -/
def Obligations.OnlyStoresWriteMemory : Prop :=
  (∀ (i : Instr) (s t : State), exec i s = .next t → ∀ a, t.mem.read a = s.mem.read a) ∧
  (∀ s t : State, step s = .next t → (∀ a v rest, s.inputs ≠ .store a v :: rest) → ∀ a, t.mem.read a = s.mem.read a)

/-- A store that has a step replaces one byte and no other, whatever the engine is doing (rules R66, R75), and leaves every
register of the window as it was. -/
def Obligations.StoreReplacesOneByte : Prop :=
  ∀ (s t : State) (a : Nat) (v : Byte) (rest : List Input), s.mem.wf = true → s.inputs = .store a v :: rest →
    step s = .next t →
    (∀ b, t.mem.read b = if b = a then v else s.mem.read b) ∧ t.mem.wf = true ∧ ∀ r, t.readSlot r = s.readSlot r

/-- Rules R35 and R36: RESULT and RESULT_H2 are written only by COMBINE (and by reset, rule R260). -/
def Obligations.ResultsOnlyFromCombine : Prop :=
  ∀ s t : State, step s = .next t → s.NextTurnNoReset →
    ¬ (s.EngineMoves ∧ s.status.busy = true ∧ s.status.phase = 7) → t.result = s.result ∧ t.resultH2 = s.resultH2

/-- Rule R39: SEED, LEN and SRC are constant for the whole of a run: no step but a reset changes them while BUSY is 1, and the
parameters never change. -/
def Obligations.OperandsConstantDuringRun : Prop :=
  ∀ s t : State, step s = .next t →
    t.cfg = s.cfg ∧
    (s.NextTurnNoReset → s.status.busy = true → t.seed = s.seed ∧ t.len = s.len ∧ t.src = s.src)

/-- Rule R31: the successor of each micro-op. BLOCK and TAIL go to IDLE instead if their read fails (rule R236). -/
def Obligations.PhaseSuccessors : Prop :=
  ∀ s t : State, s.EngineMoves → s.status.busy = true → step s = .next t →
    (s.status.phase = 1 → t.status.phase = if 16 ≤ s.len.toNat then 2 else 3) ∧
    (s.status.phase = 2 → t.status.busy = true → t.status.phase = if s.w.blk + 1 = s.w.nb then 3 else 2) ∧
    (s.status.phase = 3 → t.status.busy = true → t.status.phase = 4) ∧
    (s.status.phase = 4 → t.status.phase = 5) ∧
    (s.status.phase = 5 → t.status.phase = 6) ∧
    (s.status.phase = 6 → t.status.phase = 7) ∧
    (s.status.phase = 7 → t.status.phase = 0) ∧
    ((s.status.phase = 2 ∨ s.status.phase = 3) → t.status.busy = false → t.status.toWord = 0x24)

/-- Rule R230: an error state is entered by exactly four causes, each with its own code: HASH of a region that does not fit (0x14), a failed
read of BLOCK or TAIL (0x24), ABORT while BUSY (0x34), and a reserved command while idle (0x44). The cause is the instruction of the
turn taken: the command of a host write to CTRL, or the micro-op of the engine's turn. It changes no other register of the window. -/
def Obligations.FourErrorCauses : Prop :=
  ∀ s t : State, step s = .next t → s.status.err = false → t.status.err = true →
    (∃ i : Instr, s.NextTurnRuns i ∧ exec i s.turnTaken = .next t ∧
      (i = .hash ∧ s.status.busy = false ∧ 0 < s.len.toNat ∧ 2 ^ s.cfg.addrW < s.src.toNat + s.len.toNat ∧
          t.status.toWord = 0x14 ∨
       (i = .block ∨ i = .tail) ∧ s.status.busy = true ∧ s.nextAnswer = .err ∧ t.status.toWord = 0x24 ∨
       i = .abort ∧ s.status.busy = true ∧ t.status.toWord = 0x34 ∨
       i.format = .ctrl ∧ 4 ≤ i.code.toNat ∧ s.status.busy = false ∧ t.status.toWord = 0x44)) ∧
    t.seed = s.seed ∧ t.len = s.len ∧ t.src = s.src ∧ t.result = s.result ∧ t.resultH2 = s.resultH2

/-- Rule R238: an error state is left only by CLEAR, which gives STATUS 0, by a HASH, which starts a run, or by a reset. -/
def Obligations.ErrorLeftOnlyByClearHashReset : Prop :=
  ∀ s t : State, s.status.Legal → step s = .next t → s.status.err = true → t.status.err = false →
    (s.NextTurnRuns .clear ∧ t.status.toWord = 0) ∨
    (s.NextTurnRuns .hash ∧ t.status.toWord = 0x101) ∨
    ((∃ rest, s.inputs = .reset :: rest) ∧ t.status.toWord = 0)

/-- Rule R232: a step that raises BUS_ERROR is the engine's, in BLOCK or TAIL, on a read the port answers with `Err`; with
`PORT_CAN_FAIL = false` there is none. -/
def Obligations.BusErrorOnlyFromFailedRead : Prop :=
  ∀ s t : State, step s = .next t → s.status.errcode ≠ .busError → t.status.errcode = .busError →
    s.EngineMoves ∧ s.status.busy = true ∧ (s.status.phase = 2 ∨ s.status.phase = 3) ∧ s.nextAnswer = .err ∧
    s.cfg.portCanFail = true

/-- Rule R25: DONE is set only by COMBINE, in the same step that writes RESULT and RESULT_H2 with the run's lanes and clears BUSY. -/
def Obligations.DoneOnlyFromCombine : Prop :=
  ∀ s t : State, step s = .next t → t.status.done = true → s.status.done = false →
    s.EngineMoves ∧ s.status.busy = true ∧ s.status.phase = 7 ∧ t.status.busy = false ∧
    t.result = t.w.h1 ∧ t.resultH2 = t.w.h2

/-- Rule R267: a HASH, CLEAR or reserved command and a write to SEED, LEN or SRC issued while BUSY is 1 have no effect: of all the
writes rules R61 and R62 admit, only ABORT's has one. -/
def Obligations.BusyWritesIgnored : Prop :=
  ∀ (s : State) (rest : List Input) (a : Access) (addr width : Nat) (v : Word),
    s.status.busy = true → a = .write addr width v → a.wf s.cfg.regBase = true →
    (addr = s.cfg.regBase → v.extractLsb' 0 4 ≠ 2) →
    step { s with inputs := .access a :: rest } = .next { s with inputs := rest }

/-- Rule R260: a reset, at any time, zeroes every register of the window and ends a run with no error recorded; the working registers are
unspecified. That it leaves the source memory, which rule R66 gives to the host and rule R260 does not name, is the model's
inference (notes/assumptions/9.md). -/
def Obligations.ResetZeroesWindow : Prop :=
  ∀ (s : State) (rest : List Input), s.inputs = .reset :: rest →
    ∃ t, step s = .next t ∧ (∀ r, t.readSlot r = 0) ∧ t.status.busy = false ∧
      t = { s with inputs := rest, status := t.status, seed := 0, len := 0, src := 0, result := 0, resultH2 := 0,
                   w := t.w, draws := t.draws, touched := t.touched }

/-- Rule R261: the state after reset reads 0 in every slot, the engine has no step, and the machine's invariant holds. -/
def Obligations.ResetStateIsIdle : Prop :=
  (∀ r, State.reset.readSlot r = 0) ∧ State.reset.status.busy = false ∧ State.reset.Inv

/-- Every step keeps the machine's invariant: the STATUS invariants of rule R30, the memory's canonical form, a run's region inside the
source space and ordinary, and the block counters of rules R42 and R174. -/
def Obligations.StepKeepsInvariant : Prop :=
  ∀ s t : State, s.Inv → step s = .next t → t.Inv

/-- From a state that keeps the invariant, every allowed turn has a next state: no read leaves the source space (rule R70), no reserved
phase is met (rule R97), no word fails to decode. SRC and LEN name ordinary memory (rule R72). The engine's turn while BUSY is
0, to which rule R170 gives no step, is among the allowed ones by the model's choice (notes/assumptions/8.md). -/
def Obligations.AllowedTurnsHaveASuccessor : Prop :=
  ∀ s : State, s.Inv → s.NextTurnAllowed → s.cfg.touchesDevice s.src.toNat s.len.toNat = false → ∃ t, step s = .next t

/-- Rule R70: the engine requests the 16 bytes of block `blk` in BLOCK and the `r` bytes after the last full block in TAIL, all inside
`[SRC, SRC+LEN)`, and nothing in any other step. -/
def Obligations.RequestsCoverRegion : Prop :=
  ∀ s t : State, s.Inv → s.status.busy = true → s.EngineMoves → step s = .next t →
    (s.status.phase = 2 → t.request = some { addr := s.src.toNat + 16 * s.w.blk.toNat, count := 16 } ∧
      16 * s.w.blk.toNat + 16 ≤ s.len.toNat) ∧
    (s.status.phase = 3 → t.request =
      if s.len.toNat % 16 = 0 then s.request
      else some { addr := s.src.toNat + 16 * (s.len.toNat / 16), count := s.len.toNat % 16 }) ∧
    (s.status.phase ≠ 2 → s.status.phase ≠ 3 → t.request = s.request)

/-- Rule R77: when some agent writes a byte of the source region while BUSY is 1, the run goes on. If the run has not read the byte
yet, its lanes are as they were; if it has, they become those of rule R216 on the bytes read with every written one drawn anew.
The address stays listed at every step while BUSY is 1, and what the port returns for a listed address is a free value whatever
the memory holds. How the run's earlier reads are drawn anew is the model's reading (notes/assumptions/6.md). -/
def Obligations.BreachedByteIsFree : Prop :=
  (∀ (s : State) (a : Nat) (v : Byte) (rest : List Input), s.Inv → s.status.busy = true → s.inputs = .store a v :: rest →
    s.src.toNat ≤ a → a < s.src.toNat + s.len.toNat →
    ∃ t, step s = .next t ∧ t.status = s.status ∧ a ∈ t.touched ∧
      (s.bytesRead ≤ a - s.src.toNat → t.w = s.w) ∧
      (a - s.src.toNat < s.bytesRead → (t.w.h1, t.w.h2) =
        t.lanesOn ((List.range s.bytesRead).map fun j =>
          if s.src.toNat + j ∈ t.touched then Config.freeByte (s.draws + j) else s.mem.read (s.src.toNat + j)))) ∧
  (∀ s t : State, s.status.busy = true → step s = .next t → t.status.busy = true → ∀ a ∈ s.touched, a ∈ t.touched) ∧
  (∀ s : State, ∀ a ∈ s.touched, ∀ d, s.portByte d a = Config.freeByte d)

/-- Rule R77, one step at a time and under any interleaving: the lanes of a run past INIT are rule R216's for some choice of the bytes
written during it, every other byte being the memory's, and so COMBINE makes RESULT and RESULT_H2 the digest for such a choice.
How the run's earlier reads are drawn anew is the model's reading (notes/assumptions/6.md). -/
def Obligations.StepKeepsLanesOnAChoice : Prop :=
  (∀ s t : State, s.Inv → s.LanesFitAChoice → step s = .next t → t.LanesFitAChoice) ∧
  (∀ s : State, s.Inv → s.LanesFitAChoice → s.EngineMoves → s.status.busy = true → s.status.phase = 7 →
    ∃ t bytes, step s = .next t ∧ t.status.toWord = 0x2 ∧ s.IsChoice bytes ∧ (t.result, t.resultH2) = hash128 bytes s.seed)

/-- Rule R217, one step at a time and under any interleaving with host accesses, stores and resets: while a run is past INIT and no byte of
its region was written during it, its lanes are the values rule R216 has at the matching line. -/
def Obligations.StepKeepsDigestLanes : Prop :=
  ∀ s t : State, s.Inv → s.LanesMatch → step s = .next t → t.LanesMatch

/-- Rule R217 at the last step: COMBINE from lanes that match gives STATUS 0x2 and the digest of the region's bytes and SEED, whose signed
reading is the document's public result. -/
def Obligations.CombineDeliversDigest : Prop :=
  ∀ s : State, s.Inv → s.LanesMatch → s.EngineMoves → s.status.busy = true → s.status.phase = 7 → s.touched = [] →
    ∃ t, step s = .next t ∧ t.status.toWord = 0x2 ∧ (t.result, t.resultH2) = hash128 s.regionBytes s.seed ∧
      s64 t.result = hash128Public s.regionBytes s.seed ∧
      digest128 (hash128 s.regionBytes s.seed) = t.resultH2.toNat * 2 ^ 64 + t.result.toNat

/-- Rules R217 and R218: a HASH accepted with no other event before the end and a port that does not fail runs exactly
`floor(LEN/16) + 6` engine steps, BUSY all the way, and leaves STATUS 0x2 and the digest of the `LEN` bytes at SRC under SEED. That the
engine moves when no event is pending is the model's choice (notes/assumptions/7.md). -/
def Obligations.RunComputesDigest : Prop :=
  ∀ s : State, s.Inv → s.status.busy = false → s.inputs = [.access (.write s.cfg.regBase 64 1)] → s.PortStaysOk →
    (s.len.toNat = 0 ∨ s.src.toNat + s.len.toNat ≤ 2 ^ s.cfg.addrW) →
    s.cfg.touchesDevice s.src.toNat s.len.toNat = false →
    (∀ k, k < s.len.toNat / 16 + 6 →
      ∃ u : State, Host.Core.run Sys2Proof.core (1 + k) s = .next u ∧ u.status.busy = true) ∧
    ∃ t : State, Host.Core.run Sys2Proof.core (1 + (s.len.toNat / 16 + 6)) s = .next t ∧ t.status.toWord = 0x2 ∧
      (t.result, t.resultH2) = hash128 s.regionBytes s.seed

/-- Rule R215 under rule R270's fairness: left to itself, a run ends within `floor(LEN/16) + 6` engine steps, whatever the port answers. -/
def Obligations.EveryRunEnds : Prop :=
  ∀ s : State, s.Inv → s.status.busy = true → s.inputs = [] →
    ∃ k, k ≤ s.len.toNat / 16 + 6 ∧ ∃ t : State, Host.Core.run Sys2Proof.core k s = .next t ∧ t.status.busy = false

/-- Rules R43 and R45: what the working registers hold outside a run, or before INIT has written them, makes no difference to anything a host
can observe: two such states have the same outcome at every step, and their successors are such states again. -/
def Obligations.WorkingRegistersUnobservable : Prop :=
  (∀ s t : State, SameObservably s t → SameOutcome (step s) (step t)) ∧
  (∀ (s : State) (w : Working), s.status.busy = false ∨ s.status.phase = 1 → SameObservably s { s with w := w }) ∧
  (∀ s t : State, SameObservably s t → ∀ r, s.readSlot r = t.readSlot r)

/-! ### Host programs -/

/-- Rule R99: the bus access of every register line of the notation is one that rules R61 and R62 admit, and it reaches the slot and the half
the line names; a label and a branch have none. -/
def Obligations.HostLinesReachTheirSlots : Prop :=
  ∀ (c : Config) (r : Slot) (v : Word) (v32 : BitVec 32) (t l : Nat),
    (HostLine.wr64 r v).busAccess c = some (.write (c.regBase + r.offset) 64 v) ∧
    (HostLine.rd64 r t).busAccess c = some (.read (c.regBase + r.offset) 64) ∧
    c.resolve (c.regBase + r.offset) 64 = some (r, .whole) ∧
    (HostLine.wr32 r false v32).busAccess c = some (.write (c.regBase + r.offset) 32 (v32.setWidth 64)) ∧
    (HostLine.rd32 r false t).busAccess c = some (.read (c.regBase + r.offset) 32) ∧
    c.resolve (c.regBase + r.offset) 32 = some (r, .lo) ∧
    (HostLine.wr32 r true v32).busAccess c = some (.write (c.regBase + r.offset + 4) 32 (v32.setWidth 64)) ∧
    (HostLine.rd32 r true t).busAccess c = some (.read (c.regBase + r.offset + 4) 32) ∧
    c.resolve (c.regBase + r.offset + 4) 32 = some (r, .hi) ∧
    (HostLine.label l).busAccess c = none ∧ (HostLine.bnz t v l).busAccess c = none

/-- Rule R100: `nop`, `hash`, `abort` and `clear` are one host line whose write runs that command, `wait` and `hash128` expand to the lines
of the table, and `st & 0x6 = 0x2` says DONE = 1 and ERR = 0. -/
def Obligations.PseudoInstructionsExpand : Prop :=
  (∀ (s : State) (rest : List Input) (p : Pseudo) (i : Instr),
    (p, i) ∈ [(Pseudo.nop, Instr.nop), (.hash, .hash), (.abort, .abort), (.clear, .clear)] →
    ∃ line a, p.expand = [line] ∧ line.busAccess s.cfg = some a ∧
      step { s with inputs := .access a :: rest } = exec i { s with inputs := rest }) ∧
  (∀ t l : Nat, (Pseudo.wait t l).expand = [.label l, .rd64 .status t, .bnz t 0x1 l]) ∧
  (∀ (src len seed : Word) (t l st res : Nat),
    (Pseudo.hash128 src len seed t l st res).expand =
      [.wr64 .src src, .wr64 .len len, .wr64 .seed seed] ++ Pseudo.hash.expand ++ (Pseudo.wait t l).expand ++
        [.rd64 .status st, .rd64 .result res]) ∧
  (∀ st : Status, resultValid st.toWord = (st.done && !st.err))
end

