-- ==== Sys2Proof/Laws/State.lean ====
section
/-! SUPPORT. One lemma per field per update of the state and of STATUS, each true by rfl, so that no later proof unfolds a record
update. -/

namespace Sys2Proof.Machine

/-! ### afterRequest (rule R9) -/

@[simp] theorem State.afterRequest_cfg (s : State) (a n : Nat) : (s.afterRequest a n).cfg = s.cfg := rfl
@[simp] theorem State.afterRequest_status (s : State) (a n : Nat) : (s.afterRequest a n).status = s.status := rfl
@[simp] theorem State.afterRequest_seed (s : State) (a n : Nat) : (s.afterRequest a n).seed = s.seed := rfl
@[simp] theorem State.afterRequest_len (s : State) (a n : Nat) : (s.afterRequest a n).len = s.len := rfl
@[simp] theorem State.afterRequest_src (s : State) (a n : Nat) : (s.afterRequest a n).src = s.src := rfl
@[simp] theorem State.afterRequest_result (s : State) (a n : Nat) : (s.afterRequest a n).result = s.result := rfl
@[simp] theorem State.afterRequest_resultH2 (s : State) (a n : Nat) : (s.afterRequest a n).resultH2 = s.resultH2 := rfl
@[simp] theorem State.afterRequest_w (s : State) (a n : Nat) : (s.afterRequest a n).w = s.w := rfl
@[simp] theorem State.afterRequest_mem (s : State) (a n : Nat) : (s.afterRequest a n).mem = s.mem := rfl
@[simp] theorem State.afterRequest_touched (s : State) (a n : Nat) : (s.afterRequest a n).touched = s.touched := rfl
@[simp] theorem State.afterRequest_inputs (s : State) (a n : Nat) : (s.afterRequest a n).inputs = s.inputs := rfl
@[simp] theorem State.afterRequest_portAnswers (s : State) (a n : Nat) : (s.afterRequest a n).portAnswers = s.portAnswers.tail := rfl
@[simp] theorem State.afterRequest_request (s : State) (a n : Nat) : (s.afterRequest a n).request = some ⟨a, n⟩ := rfl
@[simp] theorem State.afterRequest_reply (s : State) (a n : Nat) : (s.afterRequest a n).reply = s.reply := rfl
@[simp] theorem State.afterRequest_draws (s : State) (a n : Nat) : (s.afterRequest a n).draws = s.draws + n := rfl

/-! ### reject (rules R236, R237) -/

@[simp] theorem State.reject_cfg (s : State) (e : ErrCode) : (s.reject e).cfg = s.cfg := rfl
@[simp] theorem State.reject_status (s : State) (e : ErrCode) : (s.reject e).status = s.status.error e := rfl
@[simp] theorem State.reject_seed (s : State) (e : ErrCode) : (s.reject e).seed = s.seed := rfl
@[simp] theorem State.reject_len (s : State) (e : ErrCode) : (s.reject e).len = s.len := rfl
@[simp] theorem State.reject_src (s : State) (e : ErrCode) : (s.reject e).src = s.src := rfl
@[simp] theorem State.reject_result (s : State) (e : ErrCode) : (s.reject e).result = s.result := rfl
@[simp] theorem State.reject_resultH2 (s : State) (e : ErrCode) : (s.reject e).resultH2 = s.resultH2 := rfl
@[simp] theorem State.reject_w (s : State) (e : ErrCode) : (s.reject e).w = s.w := rfl
@[simp] theorem State.reject_mem (s : State) (e : ErrCode) : (s.reject e).mem = s.mem := rfl
@[simp] theorem State.reject_touched (s : State) (e : ErrCode) : (s.reject e).touched = s.touched := rfl
@[simp] theorem State.reject_inputs (s : State) (e : ErrCode) : (s.reject e).inputs = s.inputs := rfl
@[simp] theorem State.reject_portAnswers (s : State) (e : ErrCode) : (s.reject e).portAnswers = s.portAnswers := rfl
@[simp] theorem State.reject_request (s : State) (e : ErrCode) : (s.reject e).request = s.request := rfl
@[simp] theorem State.reject_reply (s : State) (e : ErrCode) : (s.reject e).reply = s.reply := rfl
@[simp] theorem State.reject_draws (s : State) (e : ErrCode) : (s.reject e).draws = s.draws := rfl

/-! ### forgetWorking (rule R43) -/

@[simp] theorem State.forgetWorking_cfg (s : State) : s.forgetWorking.cfg = s.cfg := rfl
@[simp] theorem State.forgetWorking_status (s : State) : s.forgetWorking.status = s.status := rfl
@[simp] theorem State.forgetWorking_seed (s : State) : s.forgetWorking.seed = s.seed := rfl
@[simp] theorem State.forgetWorking_len (s : State) : s.forgetWorking.len = s.len := rfl
@[simp] theorem State.forgetWorking_src (s : State) : s.forgetWorking.src = s.src := rfl
@[simp] theorem State.forgetWorking_result (s : State) : s.forgetWorking.result = s.result := rfl
@[simp] theorem State.forgetWorking_resultH2 (s : State) : s.forgetWorking.resultH2 = s.resultH2 := rfl
@[simp] theorem State.forgetWorking_w (s : State) : s.forgetWorking.w = Working.free s.draws := rfl
@[simp] theorem State.forgetWorking_mem (s : State) : s.forgetWorking.mem = s.mem := rfl
@[simp] theorem State.forgetWorking_touched (s : State) : s.forgetWorking.touched = s.touched := rfl
@[simp] theorem State.forgetWorking_inputs (s : State) : s.forgetWorking.inputs = s.inputs := rfl
@[simp] theorem State.forgetWorking_portAnswers (s : State) : s.forgetWorking.portAnswers = s.portAnswers := rfl
@[simp] theorem State.forgetWorking_request (s : State) : s.forgetWorking.request = s.request := rfl
@[simp] theorem State.forgetWorking_reply (s : State) : s.forgetWorking.reply = s.reply := rfl
@[simp] theorem State.forgetWorking_draws (s : State) : s.forgetWorking.draws = s.draws + 6 := rfl

/-! ### stopRun (rules R236, R43) -/

@[simp] theorem State.stopRun_cfg (s : State) (e : ErrCode) : (s.stopRun e).cfg = s.cfg := rfl
@[simp] theorem State.stopRun_status (s : State) (e : ErrCode) : (s.stopRun e).status = s.status.error e := rfl
@[simp] theorem State.stopRun_seed (s : State) (e : ErrCode) : (s.stopRun e).seed = s.seed := rfl
@[simp] theorem State.stopRun_len (s : State) (e : ErrCode) : (s.stopRun e).len = s.len := rfl
@[simp] theorem State.stopRun_src (s : State) (e : ErrCode) : (s.stopRun e).src = s.src := rfl
@[simp] theorem State.stopRun_result (s : State) (e : ErrCode) : (s.stopRun e).result = s.result := rfl
@[simp] theorem State.stopRun_resultH2 (s : State) (e : ErrCode) : (s.stopRun e).resultH2 = s.resultH2 := rfl
@[simp] theorem State.stopRun_w (s : State) (e : ErrCode) : (s.stopRun e).w = Working.free s.draws := rfl
@[simp] theorem State.stopRun_mem (s : State) (e : ErrCode) : (s.stopRun e).mem = s.mem := rfl
@[simp] theorem State.stopRun_touched (s : State) (e : ErrCode) : (s.stopRun e).touched = s.touched := rfl
@[simp] theorem State.stopRun_inputs (s : State) (e : ErrCode) : (s.stopRun e).inputs = s.inputs := rfl
@[simp] theorem State.stopRun_portAnswers (s : State) (e : ErrCode) : (s.stopRun e).portAnswers = s.portAnswers := rfl
@[simp] theorem State.stopRun_request (s : State) (e : ErrCode) : (s.stopRun e).request = s.request := rfl
@[simp] theorem State.stopRun_reply (s : State) (e : ErrCode) : (s.stopRun e).reply = s.reply := rfl
@[simp] theorem State.stopRun_draws (s : State) (e : ErrCode) : (s.stopRun e).draws = s.draws + 6 := rfl

/-! ### clearError (rule R114) -/

@[simp] theorem State.clearError_cfg (s : State) : s.clearError.cfg = s.cfg := rfl
@[simp] theorem State.clearError_status (s : State) : s.clearError.status = s.status.cleared := rfl
@[simp] theorem State.clearError_seed (s : State) : s.clearError.seed = s.seed := rfl
@[simp] theorem State.clearError_len (s : State) : s.clearError.len = s.len := rfl
@[simp] theorem State.clearError_src (s : State) : s.clearError.src = s.src := rfl
@[simp] theorem State.clearError_result (s : State) : s.clearError.result = s.result := rfl
@[simp] theorem State.clearError_resultH2 (s : State) : s.clearError.resultH2 = s.resultH2 := rfl
@[simp] theorem State.clearError_w (s : State) : s.clearError.w = s.w := rfl
@[simp] theorem State.clearError_mem (s : State) : s.clearError.mem = s.mem := rfl
@[simp] theorem State.clearError_touched (s : State) : s.clearError.touched = s.touched := rfl
@[simp] theorem State.clearError_inputs (s : State) : s.clearError.inputs = s.inputs := rfl
@[simp] theorem State.clearError_portAnswers (s : State) : s.clearError.portAnswers = s.portAnswers := rfl
@[simp] theorem State.clearError_request (s : State) : s.clearError.request = s.request := rfl
@[simp] theorem State.clearError_reply (s : State) : s.clearError.reply = s.reply := rfl
@[simp] theorem State.clearError_draws (s : State) : s.clearError.draws = s.draws := rfl

/-! ### startRun (rule R112) -/

@[simp] theorem State.startRun_cfg (s : State) : s.startRun.cfg = s.cfg := rfl
@[simp] theorem State.startRun_status (s : State) : s.startRun.status = s.status.accepted := rfl
@[simp] theorem State.startRun_seed (s : State) : s.startRun.seed = s.seed := rfl
@[simp] theorem State.startRun_len (s : State) : s.startRun.len = s.len := rfl
@[simp] theorem State.startRun_src (s : State) : s.startRun.src = s.src := rfl
@[simp] theorem State.startRun_result (s : State) : s.startRun.result = s.result := rfl
@[simp] theorem State.startRun_resultH2 (s : State) : s.startRun.resultH2 = s.resultH2 := rfl
@[simp] theorem State.startRun_w (s : State) : s.startRun.w = s.w := rfl
@[simp] theorem State.startRun_mem (s : State) : s.startRun.mem = s.mem := rfl
@[simp] theorem State.startRun_touched (s : State) : s.startRun.touched = [] := rfl
@[simp] theorem State.startRun_inputs (s : State) : s.startRun.inputs = s.inputs := rfl
@[simp] theorem State.startRun_portAnswers (s : State) : s.startRun.portAnswers = s.portAnswers := rfl
@[simp] theorem State.startRun_request (s : State) : s.startRun.request = s.request := rfl
@[simp] theorem State.startRun_reply (s : State) : s.startRun.reply = s.reply := rfl
@[simp] theorem State.startRun_draws (s : State) : s.startRun.draws = s.draws := rfl

/-! ### hardwareReset (rule R260) -/

@[simp] theorem State.hardwareReset_cfg (s : State) : s.hardwareReset.cfg = s.cfg := rfl
@[simp] theorem State.hardwareReset_status (s : State) : s.hardwareReset.status = Status.reset := rfl
@[simp] theorem State.hardwareReset_seed (s : State) : s.hardwareReset.seed = 0 := rfl
@[simp] theorem State.hardwareReset_len (s : State) : s.hardwareReset.len = 0 := rfl
@[simp] theorem State.hardwareReset_src (s : State) : s.hardwareReset.src = 0 := rfl
@[simp] theorem State.hardwareReset_result (s : State) : s.hardwareReset.result = 0 := rfl
@[simp] theorem State.hardwareReset_resultH2 (s : State) : s.hardwareReset.resultH2 = 0 := rfl
@[simp] theorem State.hardwareReset_w (s : State) : s.hardwareReset.w = Working.free s.draws := rfl
@[simp] theorem State.hardwareReset_mem (s : State) : s.hardwareReset.mem = s.mem := rfl
@[simp] theorem State.hardwareReset_touched (s : State) : s.hardwareReset.touched = [] := rfl
@[simp] theorem State.hardwareReset_inputs (s : State) : s.hardwareReset.inputs = s.inputs := rfl
@[simp] theorem State.hardwareReset_portAnswers (s : State) : s.hardwareReset.portAnswers = s.portAnswers := rfl
@[simp] theorem State.hardwareReset_request (s : State) : s.hardwareReset.request = s.request := rfl
@[simp] theorem State.hardwareReset_reply (s : State) : s.hardwareReset.reply = s.reply := rfl
@[simp] theorem State.hardwareReset_draws (s : State) : s.hardwareReset.draws = s.draws + 6 := rfl

/-! ### blockRound (rule R173) -/

@[simp] theorem State.blockRound_cfg (s : State) (v : BitVec 128) : (s.blockRound v).cfg = s.cfg := rfl
@[simp] theorem State.blockRound_seed (s : State) (v : BitVec 128) : (s.blockRound v).seed = s.seed := rfl
@[simp] theorem State.blockRound_len (s : State) (v : BitVec 128) : (s.blockRound v).len = s.len := rfl
@[simp] theorem State.blockRound_src (s : State) (v : BitVec 128) : (s.blockRound v).src = s.src := rfl
@[simp] theorem State.blockRound_result (s : State) (v : BitVec 128) : (s.blockRound v).result = s.result := rfl
@[simp] theorem State.blockRound_resultH2 (s : State) (v : BitVec 128) : (s.blockRound v).resultH2 = s.resultH2 := rfl
@[simp] theorem State.blockRound_mem (s : State) (v : BitVec 128) : (s.blockRound v).mem = s.mem := rfl
@[simp] theorem State.blockRound_touched (s : State) (v : BitVec 128) : (s.blockRound v).touched = s.touched := rfl
@[simp] theorem State.blockRound_inputs (s : State) (v : BitVec 128) : (s.blockRound v).inputs = s.inputs := rfl
@[simp] theorem State.blockRound_portAnswers (s : State) (v : BitVec 128) : (s.blockRound v).portAnswers = s.portAnswers := rfl
@[simp] theorem State.blockRound_request (s : State) (v : BitVec 128) : (s.blockRound v).request = s.request := rfl
@[simp] theorem State.blockRound_reply (s : State) (v : BitVec 128) : (s.blockRound v).reply = s.reply := rfl
@[simp] theorem State.blockRound_draws (s : State) (v : BitVec 128) : (s.blockRound v).draws = s.draws := rfl

/-! ### tailFold (rule R192) -/

@[simp] theorem State.tailFold_cfg (s : State) (r : Nat) (t : BitVec 128) : (s.tailFold r t).cfg = s.cfg := rfl
@[simp] theorem State.tailFold_status (s : State) (r : Nat) (t : BitVec 128) : (s.tailFold r t).status = s.status.toPhase 4 := rfl
@[simp] theorem State.tailFold_seed (s : State) (r : Nat) (t : BitVec 128) : (s.tailFold r t).seed = s.seed := rfl
@[simp] theorem State.tailFold_len (s : State) (r : Nat) (t : BitVec 128) : (s.tailFold r t).len = s.len := rfl
@[simp] theorem State.tailFold_src (s : State) (r : Nat) (t : BitVec 128) : (s.tailFold r t).src = s.src := rfl
@[simp] theorem State.tailFold_result (s : State) (r : Nat) (t : BitVec 128) : (s.tailFold r t).result = s.result := rfl
@[simp] theorem State.tailFold_resultH2 (s : State) (r : Nat) (t : BitVec 128) : (s.tailFold r t).resultH2 = s.resultH2 := rfl
@[simp] theorem State.tailFold_mem (s : State) (r : Nat) (t : BitVec 128) : (s.tailFold r t).mem = s.mem := rfl
@[simp] theorem State.tailFold_touched (s : State) (r : Nat) (t : BitVec 128) : (s.tailFold r t).touched = s.touched := rfl
@[simp] theorem State.tailFold_inputs (s : State) (r : Nat) (t : BitVec 128) : (s.tailFold r t).inputs = s.inputs := rfl
@[simp] theorem State.tailFold_portAnswers (s : State) (r : Nat) (t : BitVec 128) : (s.tailFold r t).portAnswers = s.portAnswers := rfl
@[simp] theorem State.tailFold_request (s : State) (r : Nat) (t : BitVec 128) : (s.tailFold r t).request = s.request := rfl
@[simp] theorem State.tailFold_reply (s : State) (r : Nat) (t : BitVec 128) : (s.tailFold r t).reply = s.reply := rfl
@[simp] theorem State.tailFold_draws (s : State) (r : Nat) (t : BitVec 128) : (s.tailFold r t).draws = s.draws := rfl

/-! ### goTo (rule R31) -/

@[simp] theorem State.goTo_cfg (s : State) (w : Working) (p : BitVec 4) : (s.goTo w p).cfg = s.cfg := rfl
@[simp] theorem State.goTo_status (s : State) (w : Working) (p : BitVec 4) : (s.goTo w p).status = s.status.toPhase p := rfl
@[simp] theorem State.goTo_seed (s : State) (w : Working) (p : BitVec 4) : (s.goTo w p).seed = s.seed := rfl
@[simp] theorem State.goTo_len (s : State) (w : Working) (p : BitVec 4) : (s.goTo w p).len = s.len := rfl
@[simp] theorem State.goTo_src (s : State) (w : Working) (p : BitVec 4) : (s.goTo w p).src = s.src := rfl
@[simp] theorem State.goTo_result (s : State) (w : Working) (p : BitVec 4) : (s.goTo w p).result = s.result := rfl
@[simp] theorem State.goTo_resultH2 (s : State) (w : Working) (p : BitVec 4) : (s.goTo w p).resultH2 = s.resultH2 := rfl
@[simp] theorem State.goTo_w (s : State) (w : Working) (p : BitVec 4) : (s.goTo w p).w = w := rfl
@[simp] theorem State.goTo_mem (s : State) (w : Working) (p : BitVec 4) : (s.goTo w p).mem = s.mem := rfl
@[simp] theorem State.goTo_touched (s : State) (w : Working) (p : BitVec 4) : (s.goTo w p).touched = s.touched := rfl
@[simp] theorem State.goTo_inputs (s : State) (w : Working) (p : BitVec 4) : (s.goTo w p).inputs = s.inputs := rfl
@[simp] theorem State.goTo_portAnswers (s : State) (w : Working) (p : BitVec 4) : (s.goTo w p).portAnswers = s.portAnswers := rfl
@[simp] theorem State.goTo_request (s : State) (w : Working) (p : BitVec 4) : (s.goTo w p).request = s.request := rfl
@[simp] theorem State.goTo_reply (s : State) (w : Working) (p : BitVec 4) : (s.goTo w p).reply = s.reply := rfl
@[simp] theorem State.goTo_draws (s : State) (w : Working) (p : BitVec 4) : (s.goTo w p).draws = s.draws := rfl

/-! ### complete (rule R213) -/

@[simp] theorem State.complete_cfg (s : State) (h1 h2 : Word) : (s.complete h1 h2).cfg = s.cfg := rfl
@[simp] theorem State.complete_status (s : State) (h1 h2 : Word) : (s.complete h1 h2).status = s.status.completed := rfl
@[simp] theorem State.complete_seed (s : State) (h1 h2 : Word) : (s.complete h1 h2).seed = s.seed := rfl
@[simp] theorem State.complete_len (s : State) (h1 h2 : Word) : (s.complete h1 h2).len = s.len := rfl
@[simp] theorem State.complete_src (s : State) (h1 h2 : Word) : (s.complete h1 h2).src = s.src := rfl
@[simp] theorem State.complete_result (s : State) (h1 h2 : Word) : (s.complete h1 h2).result = h1 := rfl
@[simp] theorem State.complete_resultH2 (s : State) (h1 h2 : Word) : (s.complete h1 h2).resultH2 = h2 := rfl
@[simp] theorem State.complete_w (s : State) (h1 h2 : Word) : (s.complete h1 h2).w = s.w.withLanes h1 h2 := rfl
@[simp] theorem State.complete_mem (s : State) (h1 h2 : Word) : (s.complete h1 h2).mem = s.mem := rfl
@[simp] theorem State.complete_touched (s : State) (h1 h2 : Word) : (s.complete h1 h2).touched = s.touched := rfl
@[simp] theorem State.complete_inputs (s : State) (h1 h2 : Word) : (s.complete h1 h2).inputs = s.inputs := rfl
@[simp] theorem State.complete_portAnswers (s : State) (h1 h2 : Word) : (s.complete h1 h2).portAnswers = s.portAnswers := rfl
@[simp] theorem State.complete_request (s : State) (h1 h2 : Word) : (s.complete h1 h2).request = s.request := rfl
@[simp] theorem State.complete_reply (s : State) (h1 h2 : Word) : (s.complete h1 h2).reply = s.reply := rfl
@[simp] theorem State.complete_draws (s : State) (h1 h2 : Word) : (s.complete h1 h2).draws = s.draws := rfl

/-! ### redraw (rule R77) -/

@[simp] theorem State.redraw_cfg (s : State) : s.redraw.cfg = s.cfg := rfl
@[simp] theorem State.redraw_status (s : State) : s.redraw.status = s.status := rfl
@[simp] theorem State.redraw_seed (s : State) : s.redraw.seed = s.seed := rfl
@[simp] theorem State.redraw_len (s : State) : s.redraw.len = s.len := rfl
@[simp] theorem State.redraw_src (s : State) : s.redraw.src = s.src := rfl
@[simp] theorem State.redraw_result (s : State) : s.redraw.result = s.result := rfl
@[simp] theorem State.redraw_resultH2 (s : State) : s.redraw.resultH2 = s.resultH2 := rfl
@[simp] theorem State.redraw_mem (s : State) : s.redraw.mem = s.mem := rfl
@[simp] theorem State.redraw_touched (s : State) : s.redraw.touched = s.touched := rfl
@[simp] theorem State.redraw_inputs (s : State) : s.redraw.inputs = s.inputs := rfl
@[simp] theorem State.redraw_portAnswers (s : State) : s.redraw.portAnswers = s.portAnswers := rfl
@[simp] theorem State.redraw_request (s : State) : s.redraw.request = s.request := rfl
@[simp] theorem State.redraw_reply (s : State) : s.redraw.reply = s.reply := rfl
@[simp] theorem State.redraw_draws (s : State) : s.redraw.draws = s.draws + s.bytesRead := rfl

/-! ### turnTaken (rule R20) -/

@[simp] theorem State.turnTaken_cfg (s : State) : s.turnTaken.cfg = s.cfg := rfl
@[simp] theorem State.turnTaken_status (s : State) : s.turnTaken.status = s.status := rfl
@[simp] theorem State.turnTaken_seed (s : State) : s.turnTaken.seed = s.seed := rfl
@[simp] theorem State.turnTaken_len (s : State) : s.turnTaken.len = s.len := rfl
@[simp] theorem State.turnTaken_src (s : State) : s.turnTaken.src = s.src := rfl
@[simp] theorem State.turnTaken_result (s : State) : s.turnTaken.result = s.result := rfl
@[simp] theorem State.turnTaken_resultH2 (s : State) : s.turnTaken.resultH2 = s.resultH2 := rfl
@[simp] theorem State.turnTaken_w (s : State) : s.turnTaken.w = s.w := rfl
@[simp] theorem State.turnTaken_mem (s : State) : s.turnTaken.mem = s.mem := rfl
@[simp] theorem State.turnTaken_touched (s : State) : s.turnTaken.touched = s.touched := rfl
@[simp] theorem State.turnTaken_inputs (s : State) : s.turnTaken.inputs = s.inputs.tail := rfl
@[simp] theorem State.turnTaken_portAnswers (s : State) : s.turnTaken.portAnswers = s.portAnswers := rfl
@[simp] theorem State.turnTaken_request (s : State) : s.turnTaken.request = s.request := rfl
@[simp] theorem State.turnTaken_reply (s : State) : s.turnTaken.reply = s.reply := rfl
@[simp] theorem State.turnTaken_draws (s : State) : s.turnTaken.draws = s.draws := rfl

/-! ### The working registers after BLOCK and TAIL -/

/-- Replacing the other working registers leaves W.nb. -/
theorem Working.withRound_nb (w : Working) (a b c d e : Word) :
    ({ w with h1 := a, h2 := b, k1 := c, k2 := d, blk := e } : Working).nb = w.nb := rfl

@[simp] theorem State.blockRound_w_h1 (s : State) (v : BitVec 128) :
    (s.blockRound v).w.h1 = roundH1 s.w.h1 s.w.h2 (v.extractLsb' 0 64) := by
  rfl
@[simp] theorem State.blockRound_w_h2 (s : State) (v : BitVec 128) :
    (s.blockRound v).w.h2 = roundH2 s.w.h2 (roundH1 s.w.h1 s.w.h2 (v.extractLsb' 0 64)) (v.extractLsb' 64 64) := by
  rfl
@[simp] theorem State.blockRound_w_k1 (s : State) (v : BitVec 128) :
    (s.blockRound v).w.k1 = v.extractLsb' 0 64 := by
  rfl
@[simp] theorem State.blockRound_w_k2 (s : State) (v : BitVec 128) :
    (s.blockRound v).w.k2 = v.extractLsb' 64 64 := by
  rfl
@[simp] theorem State.blockRound_w_nb (s : State) (v : BitVec 128) :
    (s.blockRound v).w.nb = s.w.nb := by
  exact Working.withRound_nb s.w _ _ _ _ _
@[simp] theorem State.blockRound_w_blk (s : State) (v : BitVec 128) :
    (s.blockRound v).w.blk = s.w.blk + 1 := by
  rfl
@[simp] theorem State.blockRound_status (s : State) (v : BitVec 128) :
    (s.blockRound v).status = s.status.toPhase (if s.w.blk + 1 = s.w.nb then 3 else 2) := rfl
/-- The last block's successor is TAIL (rule R31). -/
theorem State.blockRound_status_last {s : State} (h : s.w.blk + 1 = s.w.nb) (v : BitVec 128) :
    (s.blockRound v).status = s.status.toPhase 3 := by
  rw [State.blockRound_status, if_pos h]
/-- Any other block's successor is BLOCK (rule R31). -/
theorem State.blockRound_status_more {s : State} (h : s.w.blk + 1 ≠ s.w.nb) (v : BitVec 128) :
    (s.blockRound v).status = s.status.toPhase 2 := by
  rw [State.blockRound_status, if_neg h]

@[simp] theorem State.tailFold_w_h1 (s : State) (r : Nat) (t : BitVec 128) :
    (s.tailFold r t).w.h1 = if 1 ≤ r then xor64 s.w.h1 (mixK1 (t.extractLsb' 0 64)) else s.w.h1 := by
  unfold State.tailFold; rfl
@[simp] theorem State.tailFold_w_h2 (s : State) (r : Nat) (t : BitVec 128) :
    (s.tailFold r t).w.h2 = if 9 ≤ r then xor64 s.w.h2 (tailK2Mix (if 9 ≤ r then t.extractLsb' 64 64 else 0)) else s.w.h2 := by
  unfold State.tailFold; rfl
@[simp] theorem State.tailFold_w_k1 (s : State) (r : Nat) (t : BitVec 128) :
    (s.tailFold r t).w.k1 = t.extractLsb' 0 64 := by
  unfold State.tailFold; rfl
@[simp] theorem State.tailFold_w_k2 (s : State) (r : Nat) (t : BitVec 128) :
    (s.tailFold r t).w.k2 = if 9 ≤ r then t.extractLsb' 64 64 else 0 := by
  unfold State.tailFold; rfl
@[simp] theorem State.tailFold_w_nb (s : State) (r : Nat) (t : BitVec 128) :
    (s.tailFold r t).w.nb = s.w.nb := by
  unfold State.tailFold; rfl
@[simp] theorem State.tailFold_w_blk (s : State) (r : Nat) (t : BitVec 128) :
    (s.tailFold r t).w.blk = s.w.blk := by
  unfold State.tailFold; rfl

/-- A block round changes only the working registers and PHASE (rule R173). -/
theorem State.blockRound_frame (s : State) (v : BitVec 128) :
    s.blockRound v = { s with w := (s.blockRound v).w, status := (s.blockRound v).status } := by
  unfold State.blockRound; rfl

/-- A tail fold changes only the working registers and PHASE (rule R192). -/
theorem State.tailFold_frame (s : State) (r : Nat) (t : BitVec 128) :
    s.tailFold r t = { s with w := (s.tailFold r t).w, status := s.status.toPhase 4 } := by
  unfold State.tailFold; rfl

/-! ### The working registers after a redraw (rule R77) -/

@[simp] theorem State.redraw_w_h1 (s : State) : s.redraw.w.h1 = (s.lanesOn (s.portBytes s.src.toNat s.bytesRead)).1 := by
  unfold State.redraw State.replay; rfl
@[simp] theorem State.redraw_w_h2 (s : State) : s.redraw.w.h2 = (s.lanesOn (s.portBytes s.src.toNat s.bytesRead)).2 := by
  unfold State.redraw State.replay; rfl
@[simp] theorem State.redraw_w_k1 (s : State) : s.redraw.w.k1 = (s.keysOn (s.portBytes s.src.toNat s.bytesRead)).1 := by
  unfold State.redraw State.replay; rfl
@[simp] theorem State.redraw_w_k2 (s : State) : s.redraw.w.k2 = (s.keysOn (s.portBytes s.src.toNat s.bytesRead)).2 := by
  unfold State.redraw State.replay; rfl
@[simp] theorem State.redraw_w_nb (s : State) : s.redraw.w.nb = s.w.nb := by
  unfold State.redraw State.replay; rfl
@[simp] theorem State.redraw_w_blk (s : State) : s.redraw.w.blk = s.w.blk := by
  unfold State.redraw State.replay; rfl

/-! ### The working registers with both lanes replaced -/

@[simp] theorem Working.withLanes_h1 (w : Working) (h1 h2 : Word) : (w.withLanes h1 h2).h1 = h1 := by rfl
@[simp] theorem Working.withLanes_h2 (w : Working) (h1 h2 : Word) : (w.withLanes h1 h2).h2 = h2 := by rfl
@[simp] theorem Working.withLanes_k1 (w : Working) (h1 h2 : Word) : (w.withLanes h1 h2).k1 = w.k1 := by rfl
@[simp] theorem Working.withLanes_k2 (w : Working) (h1 h2 : Word) : (w.withLanes h1 h2).k2 = w.k2 := by rfl
@[simp] theorem Working.withLanes_nb (w : Working) (h1 h2 : Word) : (w.withLanes h1 h2).nb = w.nb := by rfl
@[simp] theorem Working.withLanes_blk (w : Working) (h1 h2 : Word) : (w.withLanes h1 h2).blk = w.blk := by rfl

/-! ### STATUS -/

@[simp] theorem Status.accepted_busy (st : Status) : st.accepted.busy = true := rfl
@[simp] theorem Status.accepted_done (st : Status) : st.accepted.done = false := rfl
@[simp] theorem Status.accepted_err (st : Status) : st.accepted.err = false := rfl
@[simp] theorem Status.accepted_errcode (st : Status) : st.accepted.errcode = .none := rfl
@[simp] theorem Status.accepted_phase (st : Status) : st.accepted.phase = 1 := rfl

@[simp] theorem Status.toPhase_busy (st : Status) (p : BitVec 4) : (st.toPhase p).busy = st.busy := rfl
@[simp] theorem Status.toPhase_done (st : Status) (p : BitVec 4) : (st.toPhase p).done = st.done := rfl
@[simp] theorem Status.toPhase_err (st : Status) (p : BitVec 4) : (st.toPhase p).err = st.err := rfl
@[simp] theorem Status.toPhase_errcode (st : Status) (p : BitVec 4) : (st.toPhase p).errcode = st.errcode := rfl
@[simp] theorem Status.toPhase_phase (st : Status) (p : BitVec 4) : (st.toPhase p).phase = p := rfl

@[simp] theorem Status.completed_busy (st : Status) : st.completed.busy = false := rfl
@[simp] theorem Status.completed_done (st : Status) : st.completed.done = true := rfl
@[simp] theorem Status.completed_err (st : Status) : st.completed.err = st.err := rfl
@[simp] theorem Status.completed_errcode (st : Status) : st.completed.errcode = st.errcode := rfl
@[simp] theorem Status.completed_phase (st : Status) : st.completed.phase = 0 := rfl

@[simp] theorem Status.error_busy (st : Status) (e : ErrCode) : (st.error e).busy = false := rfl
@[simp] theorem Status.error_done (st : Status) (e : ErrCode) : (st.error e).done = false := rfl
@[simp] theorem Status.error_err (st : Status) (e : ErrCode) : (st.error e).err = true := rfl
@[simp] theorem Status.error_errcode (st : Status) (e : ErrCode) : (st.error e).errcode = e := rfl
@[simp] theorem Status.error_phase (st : Status) (e : ErrCode) : (st.error e).phase = 0 := rfl

@[simp] theorem Status.cleared_busy (st : Status) : st.cleared.busy = st.busy := rfl
@[simp] theorem Status.cleared_done (st : Status) : st.cleared.done = false := rfl
@[simp] theorem Status.cleared_err (st : Status) : st.cleared.err = false := rfl
@[simp] theorem Status.cleared_errcode (st : Status) : st.cleared.errcode = .none := rfl
@[simp] theorem Status.cleared_phase (st : Status) : st.cleared.phase = st.phase := rfl

end Sys2Proof.Machine
end

