-- ==== Sys2Proof/Laws/Memory.lean ====
section
/-! SUPPORT. The laws of the source memory: a read after a write, and that a write keeps the canonical form. -/

namespace Sys2Proof.Machine

theorem Memory.read_nil (a : Nat) : Memory.read [] a = unlistedByte := rfl

theorem Memory.read_cons (c : Host.Cell) (m : Memory) (a : Nat) :
    Memory.read (c :: m) a = if c.1 = a then c.2 else Memory.read m a := rfl

/-- The canonical form, one entry at a time. -/
theorem Memory.wf_cons (c : Host.Cell) (m : Memory) :
    Memory.wf (c :: m) = true ↔ c.2 ≠ unlistedByte ∧ (∀ d ∈ m, c.1 < d.1) ∧ Memory.wf m = true := by
  obtain ⟨a, v⟩ := c
  induction m generalizing a v with
  | nil => simp [Memory.wf]
  | cons d m ih =>
    obtain ⟨b, u⟩ := d
    have step : Memory.wf ((a, v) :: (b, u) :: m) = true ↔
        v ≠ unlistedByte ∧ a < b ∧ Memory.wf ((b, u) :: m) = true := by
      simp [Memory.wf, and_assoc]
    rw [step]
    constructor
    · rintro ⟨hv, hab, hw⟩
      refine ⟨hv, ?_, hw⟩
      intro d hd
      rcases List.mem_cons.1 hd with rfl | hd
      · exact hab
      · exact Nat.lt_trans hab (((ih b u).1 hw).2.1 d hd)
    · rintro ⟨hv, hall, hw⟩
      exact ⟨hv, hall _ (List.mem_cons_self ..), hw⟩

/-- An address below every listed one is not listed. -/
theorem Memory.read_of_lt {m : Memory} {a : Nat} (h : ∀ d ∈ m, a < d.1) : m.read a = unlistedByte := by
  induction m with
  | nil => rfl
  | cons d m ih =>
    have hd := h d (List.mem_cons_self ..)
    rw [Memory.read_cons, if_neg (by omega)]
    exact ih (fun e he => h e (List.mem_cons_of_mem _ he))

theorem Memory.write_nil (a : Nat) (v : Byte) :
    Memory.write [] a v = if v = unlistedByte then [] else [(a, v)] := rfl

theorem Memory.write_cons (c : Host.Cell) (m : Memory) (a : Nat) (v : Byte) :
    Memory.write (c :: m) a v =
      if a < c.1 then (if v = unlistedByte then c :: m else (a, v) :: c :: m)
      else if a = c.1 then (if v = unlistedByte then m else (a, v) :: m)
      else c :: Memory.write m a v := rfl

/-- The entries after a write are old ones or the written one. -/
theorem Memory.mem_write {m : Memory} {a : Nat} {v : Byte} {d : Host.Cell} (h : d ∈ m.write a v) :
    d ∈ m ∨ (d = (a, v) ∧ v ≠ unlistedByte) := by
  induction m with
  | nil =>
    rw [Memory.write_nil] at h
    split at h
    · simp at h
    · exact .inr ⟨by simpa using h, by assumption⟩
  | cons c m ih =>
    rw [Memory.write_cons] at h
    split at h
    · split at h
      · exact .inl h
      · rcases List.mem_cons.1 h with rfl | h
        · exact .inr ⟨rfl, by assumption⟩
        · exact .inl h
    · split at h
      · split at h
        · exact .inl (List.mem_cons_of_mem _ h)
        · rcases List.mem_cons.1 h with rfl | h
          · exact .inr ⟨rfl, by assumption⟩
          · exact .inl (List.mem_cons_of_mem _ h)
      · rcases List.mem_cons.1 h with rfl | h
        · exact .inl (List.mem_cons_self ..)
        · exact (ih h).imp (List.mem_cons_of_mem _) id

/-- A write keeps the canonical form. -/
theorem Memory.write_wf {m : Memory} (a : Nat) (v : Byte) (h : m.wf = true) : (m.write a v).wf = true := by
  induction m with
  | nil =>
    rw [Memory.write_nil]
    split
    · rfl
    · rw [Memory.wf_cons]; exact ⟨by assumption, by simp, rfl⟩
  | cons c m ih =>
    obtain ⟨hv, hall, hw⟩ := (Memory.wf_cons c m).1 h
    rw [Memory.write_cons]
    split
    · split
      · exact h
      · rw [Memory.wf_cons]
        refine ⟨by assumption, ?_, h⟩
        intro d hd
        rcases List.mem_cons.1 hd with rfl | hd
        · assumption
        · have := hall d hd; show a < d.1; omega
    · split
      · split
        · exact hw
        · rw [Memory.wf_cons]
          refine ⟨by assumption, ?_, hw⟩
          intro d hd
          have := hall d hd
          show a < d.1
          omega
      · rw [Memory.wf_cons]
        refine ⟨hv, ?_, ih hw⟩
        intro d hd
        rcases Memory.mem_write hd with hd | ⟨rfl, -⟩
        · exact hall d hd
        · show c.1 < a; omega

/-- A read after a write: the written byte at its address, the old byte elsewhere. -/
theorem Memory.read_write {m : Memory} (a : Nat) (v : Byte) (b : Nat) (h : m.wf = true) :
    (m.write a v).read b = if b = a then v else m.read b := by
  induction m with
  | nil =>
    rw [Memory.write_nil]
    by_cases hv : v = unlistedByte
    · simp [hv, Memory.read_nil]
    · rw [if_neg hv, Memory.read_cons, Memory.read_nil]
      by_cases hb : b = a
      · simp [hb]
      · rw [if_neg (Ne.symm hb), if_neg hb]
  | cons c m ih =>
    obtain ⟨hv, hall, hw⟩ := (Memory.wf_cons c m).1 h
    have below : ∀ x, x < c.1 → Memory.read (c :: m) x = unlistedByte := fun x hx =>
      Memory.read_of_lt (fun d hd => by
        rcases List.mem_cons.1 hd with rfl | hd
        · exact hx
        · have := hall d hd; omega)
    have atHead : Memory.read m c.1 = unlistedByte := Memory.read_of_lt hall
    rw [Memory.write_cons]
    by_cases h1 : a < c.1
    · rw [if_pos h1]
      by_cases h2 : v = unlistedByte
      · rw [if_pos h2]
        by_cases hb : b = a
        · rw [if_pos hb, hb, below a h1, h2]
        · rw [if_neg hb]
      · rw [if_neg h2, Memory.read_cons]
        by_cases hb : b = a
        · simp [hb]
        · rw [if_neg (Ne.symm hb), if_neg hb]
    · rw [if_neg h1]
      by_cases h3 : a = c.1
      · rw [if_pos h3]
        by_cases h2 : v = unlistedByte
        · rw [if_pos h2]
          by_cases hb : b = a
          · rw [if_pos hb, hb, h3, atHead, h2]
          · rw [if_neg hb, Memory.read_cons, if_neg (by omega)]
        · rw [if_neg h2, Memory.read_cons]
          by_cases hb : b = a
          · simp [hb]
          · rw [if_neg (Ne.symm hb), if_neg hb, Memory.read_cons, if_neg (by omega)]
      · rw [if_neg h3, Memory.read_cons, ih hw, Memory.read_cons]
        by_cases hb : c.1 = b
        · rw [if_pos hb, if_pos hb, if_neg (by omega)]
        · rw [if_neg hb, if_neg hb]

/-- A write adds no address but its own. -/
theorem Memory.write_inside {m : Memory} {n a : Nat} (v : Byte) (h : ∀ c ∈ m, c.1 < n) (ha : a < n) :
    ∀ c ∈ m.write a v, c.1 < n := by
  intro c hc
  rcases Memory.mem_write hc with hc | ⟨rfl, -⟩
  · exact h c hc
  · exact ha

@[simp] theorem Memory.bytes_length (m : Memory) (a n : Nat) : (m.bytes a n).length = n := by
  simp [Memory.bytes]

theorem Memory.bytes_getElem (m : Memory) (a n j : Nat) (h : j < (m.bytes a n).length) :
    (m.bytes a n)[j] = m.read (a + j) := by simp [Memory.bytes]

/-- Bytes of memory are the same where every one of them reads the same. -/
theorem Memory.bytes_congr {m m' : Memory} {a n : Nat} (h : ∀ j, j < n → m'.read (a + j) = m.read (a + j)) :
    m'.bytes a n = m.bytes a n :=
  List.map_congr_left (fun j hj => h j (List.mem_range.1 hj))

/-- A write outside a range leaves its bytes. -/
theorem Memory.bytes_write_outside {m : Memory} {a n b : Nat} (v : Byte) (hm : m.wf = true)
    (h : b < a ∨ a + n ≤ b) : (m.write b v).bytes a n = m.bytes a n :=
  Memory.bytes_congr (fun j hj => by rw [Memory.read_write b v _ hm, if_neg (by omega)])

/-- Insertion keeps a rising list rising, and adds its element. -/
theorem mem_insertRising {a b : Nat} {l : List Nat} : b ∈ insertRising a l ↔ b = a ∨ b ∈ l := by
  induction l with
  | nil => simp [insertRising]
  | cons c l ih =>
    simp only [insertRising]
    split
    · simp
    · split
      · rename_i h; subst h; simp
      · simp [ih]; tauto

theorem insertRising_ne_nil (a : Nat) (l : List Nat) : insertRising a l ≠ [] := by
  intro h
  have : a ∈ insertRising a l := mem_insertRising.2 (.inl rfl)
  simp [h] at this

theorem insertRising_rising {a : Nat} {l : List Nat} (h : l.Pairwise (· < ·)) :
    (insertRising a l).Pairwise (· < ·) := by
  induction l with
  | nil => simp [insertRising]
  | cons c l ih =>
    obtain ⟨hc, hl⟩ := List.pairwise_cons.1 h
    simp only [insertRising]
    split
    · refine List.pairwise_cons.2 ⟨?_, h⟩
      intro d hd
      rcases List.mem_cons.1 hd with rfl | hd
      · assumption
      · have := hc d hd; omega
    · split
      · exact h
      · refine List.pairwise_cons.2 ⟨?_, ih hl⟩
        intro d hd
        rcases mem_insertRising.1 hd with rfl | hd
        · omega
        · exact hc d hd

end Sys2Proof.Machine
end

