-- ==== Sys2Proof/Laws/Bytes.lean ====
section
/-! SUPPORT. Little-endian values: the bytes of a port value, of `LE64` and of the tail keys (rules R9, R11, R67, R68, R191), and the
block loop of rule R216 one block at a time. -/

namespace Sys2Proof.Machine

/-- Bit `k` of a little-endian value is bit `k mod 8` of byte `k / 8` (rules R9, R67). -/
theorem leValue_bit (bs : List Byte) (hb : bs.length ≤ 16) (k : Nat) :
    (leValue bs).getLsbD k = (bs.getD (k / 8) 0).getLsbD (k % 8) := by
  induction bs generalizing k with
  | nil => simp [leValue]
  | cons b bs ih =>
    have hb' : bs.length + 1 ≤ 16 := by simpa using hb
    have ih := fun k => ih (by omega) k
    simp only [leValue, BitVec.getLsbD_or, BitVec.getLsbD_setWidth, BitVec.getLsbD_shiftLeft]
    by_cases h1 : k < 8
    · have : k < 128 := by omega
      simp [h1, this, Nat.div_eq_of_lt h1, Nat.mod_eq_of_lt h1]
    · have hd : k / 8 = (k - 8) / 8 + 1 := by omega
      have hm : k % 8 = (k - 8) % 8 := by omega
      rw [hd, hm, List.getD_cons_succ, ← ih, BitVec.getLsbD_of_ge b k (by omega)]
      by_cases h2 : k < 128
      · simp [h1, h2]
      · have : (leValue bs).getLsbD (k - 8) = false := by
          rw [ih, List.getD_eq_default _ _ (by omega)]; simp
        simp [h2, this]

/-- Byte `j` of the value is the byte read from `a + j` (rules R9, R67). -/
theorem leValue_byte (bs : List Byte) (hb : bs.length ≤ 16) (j : Nat) :
    (leValue bs).extractLsb' (8 * j) 8 = bs.getD j 0 := by
  apply BitVec.eq_of_getLsbD_eq
  intro i hi
  have h1 : (8 * j + i) / 8 = j := by omega
  have h2 : (8 * j + i) % 8 = i := by omega
  simp [hi, leValue_bit _ hb, h1, h2]

/-- Bit `k` of `LE64` is bit `k mod 8` of byte `k / 8` (rule R11). -/
theorem le64_bit (bs : List Byte) (hb : bs.length ≤ 8) (k : Nat) :
    (le64 bs).getLsbD k = (bs.getD (k / 8) 0).getLsbD (k % 8) := by
  induction bs generalizing k with
  | nil => simp [le64]
  | cons b bs ih =>
    have hb' : bs.length + 1 ≤ 8 := by simpa using hb
    have ih := fun k => ih (by omega) k
    simp only [le64, BitVec.getLsbD_or, BitVec.getLsbD_setWidth, BitVec.getLsbD_shiftLeft]
    by_cases h1 : k < 8
    · have : k < 64 := by omega
      simp [h1, this, Nat.div_eq_of_lt h1, Nat.mod_eq_of_lt h1]
    · have hd : k / 8 = (k - 8) / 8 + 1 := by omega
      have hm : k % 8 = (k - 8) % 8 := by omega
      rw [hd, hm, List.getD_cons_succ, ← ih, BitVec.getLsbD_of_ge b k (by omega)]
      by_cases h2 : k < 64
      · simp [h1, h2]
      · have : (le64 bs).getLsbD (k - 8) = false := by
          rw [ih, List.getD_eq_default _ _ (by omega)]; simp
        simp [h2, this]

/-- Byte `j` of `LE64` is its byte `j` (rule R11). -/
theorem le64_byte (bs : List Byte) (hb : bs.length ≤ 8) (j : Nat) :
    (le64 bs).extractLsb' (8 * j) 8 = bs.getD j 0 := by
  apply BitVec.eq_of_getLsbD_eq
  intro i hi
  have h1 : (8 * j + i) / 8 = j := by omega
  have h2 : (8 * j + i) % 8 = i := by omega
  simp [hi, le64_bit _ hb, h1, h2]

/-- A value of `n` bytes is zero above bit `8n - 1` (rule R9). -/
theorem leValue_lt (bs : List Byte) : (leValue bs).toNat < 2 ^ (8 * bs.length) := by
  induction bs with
  | nil => simp [leValue]
  | cons b bs ih =>
    simp only [leValue, BitVec.toNat_or, List.length_cons]
    apply Nat.or_lt_two_pow
    · simp; exact lt_of_le_of_lt (Nat.mod_le _ _) (lt_of_lt_of_le b.isLt (Nat.pow_le_pow_right (by omega) (by omega)))
    · simp [BitVec.toNat_shiftLeft]
      refine lt_of_le_of_lt (Nat.mod_le _ _) ?_
      rw [Nat.shiftLeft_eq, show 8 * (bs.length + 1) = 8 * bs.length + 8 by ring, pow_add]
      omega

/-- Two words with the same bytes are equal. -/
theorem word_ext_bytes {n : Nat} {x y : BitVec (8*n)}
    (h : ∀ j, j < n → x.extractLsb' (8*j) 8 = y.extractLsb' (8*j) 8) : x = y := by
  apply BitVec.eq_of_getLsbD_eq
  intro i hi
  have := congrArg (fun z => z.getLsbD (i % 8)) (h (i/8) (by omega))
  simp [Nat.mod_lt, Nat.div_add_mod] at this
  exact this

/-- Two 64-bit words with the same eight bytes are equal. -/
theorem word64_ext_bytes {x y : Word}
    (h : ∀ j, j < 8 → x.extractLsb' (8*j) 8 = y.extractLsb' (8*j) 8) : x = y :=
  word_ext_bytes (n := 8) h

/-- A byte of a field. -/
theorem extract_byte_of_half (v : BitVec 128) (o j : Nat) (hj : j < 8) :
    (v.extractLsb' o 64).extractLsb' (8*j) 8 = v.extractLsb' (o + 8*j) 8 := by
  apply BitVec.eq_of_getLsbD_eq
  intro i hi
  have : 8*j + i < 64 := by omega
  simp [hi, this, Nat.add_assoc]

/-- The low half of a value is `LE64` of its first eight bytes (rule R68). -/
theorem leValue_low_half (bs : List Byte) (hb : bs.length ≤ 16) :
    (leValue bs).extractLsb' 0 64 = le64 (bs.take 8) := by
  apply word64_ext_bytes
  intro j hj
  rw [extract_byte_of_half _ _ _ hj, Nat.zero_add, leValue_byte _ hb, le64_byte _ (by simp)]
  simp [hj]

/-- The high half of a value is `LE64` of the bytes after the eighth (rule R68). -/
theorem leValue_high_half (bs : List Byte) (hb : bs.length ≤ 16) :
    (leValue bs).extractLsb' 64 64 = le64 (bs.drop 8) := by
  apply word64_ext_bytes
  intro j hj
  rw [extract_byte_of_half _ _ _ hj, show 64 + 8*j = 8*(8+j) by ring, leValue_byte _ hb, le64_byte _ (by simp; omega)]
  simp

/-- One more byte at the top is one more term of the sum (rule R191). -/
theorem le64_append_byte (bs : List Byte) (b : Byte) (h : bs.length < 8) :
    le64 (bs ++ [b]) = add64 (le64 bs) (shl64 (b.setWidth 64) (8 * bs.length)) := by
  unfold add64 shl64
  rw [BitVec.add_eq_or_of_and_eq_zero]
  · apply BitVec.eq_of_getLsbD_eq
    intro i hi
    rw [le64_bit _ (by simp; omega), BitVec.getLsbD_or, le64_bit _ (by omega)]
    simp only [BitVec.getLsbD_shiftLeft, BitVec.getLsbD_setWidth]
    rcases lt_trichotomy (i / 8) bs.length with h1 | h1 | h1
    · have : i < 8 * bs.length := by omega
      rw [List.getD_append _ _ _ _ h1]; simp [this]
    · have h2 : ¬ i < 8 * bs.length := by omega
      have h3 : i - 8 * bs.length = i % 8 := by omega
      have h4 : i - 8 * bs.length < 64 := by omega
      rw [List.getD_append_right _ _ _ _ (by omega), List.getD_eq_default bs _ (by omega)]
      simp [h1, h2, h3, hi]; omega
    · have h2 : ¬ i < 8 * bs.length := by omega
      have h3 : 8 ≤ i - 8 * bs.length := by omega
      rw [List.getD_eq_default (bs ++ [b]) _ (by simp; omega), List.getD_eq_default bs _ (by omega), BitVec.getLsbD_of_ge b _ h3]
      simp
  · apply BitVec.eq_of_getLsbD_eq
    intro i hi
    rw [BitVec.getLsbD_and, le64_bit _ (by omega)]
    simp only [BitVec.getLsbD_shiftLeft]
    by_cases h1 : i < 8 * bs.length
    · simp [h1]
    · rw [List.getD_eq_default bs _ (by omega)]; simp

/-- The sum of rule R191 is `LE64` of the same bytes. -/
theorem keySum_eq_le64 (bytes : List Byte) (base n : Nat) (hn : n ≤ 8) (hb : base + n ≤ bytes.length) :
    keySum bytes base n = le64 ((bytes.drop base).take n) := by
  induction n with
  | zero => simp [keySum, le64]
  | succ n ih =>
    have e : (bytes.drop base).take (n + 1) = (bytes.drop base).take n ++ [bytes.getD (base + n) 0] := by
      rw [List.take_add_one, List.getElem?_drop, List.getD_eq_getElem?_getD]
      have : base + n < bytes.length := by omega
      simp [this]
    rw [e, le64_append_byte _ _ (by simp; omega), keySum, ih (by omega) (by omega)]
    congr 3
    simp; omega

/-- A piece of a range of memory. -/
theorem Memory.bytes_piece (m : Memory) (a n b k : Nat) (h : b + k ≤ n) :
    ((m.bytes a n).drop b).take k = m.bytes (a + b) k := by
  apply List.ext_getElem
  · simp; omega
  · intro i h1 h2
    simp [Memory.bytes_getElem, Nat.add_assoc]

/-- One more block (rule R216). -/
theorem digestBlocks_succ (bytes : List Byte) (seed : BitVec 32) (n : Nat) :
    digestBlocks bytes seed (n + 1) = digestBlock bytes (digestBlocks bytes seed n) n := by
  simp [digestBlocks, List.range_succ]

end Sys2Proof.Machine
end

