-- ==== Sys2Proof/Laws/Decode.lean ====
section
/-! SUPPORT. The decoder's tables are total and agree with the encoder; only the low nibble of a command word counts. -/

namespace Sys2Proof

/-- Each code of each format has exactly the row that encodes to it (rules R91, R93). -/
theorem decodeCode_spec (f : Format) (c : BitVec 4) :
    ∃ i : Instr, decodeCode f c = .ok i ∧ i.format = f ∧ i.code = c := by
  have all : ∀ f : Format, ∀ c : BitVec 4,
      (match decodeCode f c with
        | .ok i => i.format == f && i.code == c
        | .error _ => false) = true := by
    intro f; cases f <;> decide
  have h := all f c
  split at h
  · rename_i i hi
    exact ⟨i, hi, by simpa using h⟩
  · cases h

theorem decodeCode_code (i : Instr) : decodeCode i.format i.code = .ok i := by
  cases i <;> rfl

/-- Two instructions of one format with one code are the same. -/
theorem Instr.eq_of_code {i j : Instr} (hf : i.format = j.format) (hc : i.code = j.code) : i = j := by
  have h := decodeCode_code i
  rw [hf, hc, decodeCode_code j] at h
  exact (Except.ok.inj h).symm

@[simp] theorem bytesLE_length (n v : Nat) : (bytesLE n v).length = n := by
  induction n generalizing v with
  | zero => rfl
  | succ n ih => simp [bytesLE, ih]

theorem bytesLE_succ (n v : Nat) : bytesLE (n + 1) v = BitVec.ofNat 8 v :: bytesLE n (v / 256) := rfl

/-- The low nibble of a word's first byte is the word's low nibble. -/
theorem lowNibble_ofNat (v : Word) : lowNibble (BitVec.ofNat 8 v.toNat) = v.extractLsb' 0 4 := by
  apply BitVec.eq_of_toNat_eq
  simp [lowNibble]

/-- A command word of 8 or 4 bytes decodes by its low nibble alone (rules R90, R91, R96). -/
theorem decode_ctrl (n : Nat) (hn : n = 8 ∨ n = 4) (v : Word) :
    decode .ctrl (bytesLE n v.toNat) = decodeCode .ctrl (v.extractLsb' 0 4) := by
  rcases hn with rfl | rfl <;> rw [bytesLE_succ] <;> simp only [decode, bytesLE_length] <;>
    rw [if_pos (by simp), lowNibble_ofNat]

/-- A PHASE code's byte decodes to its row (rule R93). -/
theorem decode_phase (p : BitVec 4) : decode .phase [p.setWidth 8] = decodeCode .phase p := by
  have : ∀ p : BitVec 4, (p.setWidth 8).toNat < 16 ∧ lowNibble (p.setWidth 8) = p := by decide
  simp only [decode]
  rw [if_pos (this p).1, (this p).2]

end Sys2Proof
end

