-- ==== Sys2Proof/Laws/Ops.lean ====
section
/-! SUPPORT. One lemma for each shared operation that says once everything it can do; later proofs cite these and unfold
nothing. -/

namespace Sys2Proof.Machine

/-! ### The read port -/

@[simp] theorem memRead_zero (a : Nat) (s : State) : memRead a 0 s = .next (.ok 0, s) := rfl

/-- Everything a `MemRead` that answers can do (rule R9). -/
theorem memRead_cases {a n : Nat} {s s' : State} {res : ReadResult} (h : memRead a n s = .next (res, s')) :
    (n = 0 ∧ res = .ok 0 ∧ s' = s) ∨
    (0 < n ∧ a + n ≤ s.cfg.sourceSize ∧ s.cfg.touchesDevice a n = false ∧ s' = s.afterRequest a n ∧
      ((s.nextAnswer = .ok ∧ res = .ok (leValue (s.portBytes a n))) ∨ (s.nextAnswer = .err ∧ res = .err))) := by
  unfold memRead at h
  split at h
  · cases h; exact .inl ⟨by assumption, rfl, rfl⟩
  · split at h
    · cases h
    · split at h
      · cases h
      · rename_i h0 h1 h2
        refine .inr ⟨by omega, by omega, by simpa using h2, ?_⟩
        split at h <;> cases h
        · exact ⟨rfl, .inr ⟨by assumption, rfl⟩⟩
        · exact ⟨rfl, .inl ⟨by assumption, rfl⟩⟩

/-- A request the source space and the port admit answers `Ok` with its bytes (rules R9, R75). -/
theorem memRead_ok {a n : Nat} {s : State} (hn : 0 < n) (hs : a + n ≤ s.cfg.sourceSize)
    (hd : s.cfg.touchesDevice a n = false) (hp : s.nextAnswer = .ok) :
    memRead a n s = .next (.ok (leValue (s.portBytes a n)), s.afterRequest a n) := by
  unfold memRead
  rw [if_neg (by omega), if_neg (by omega), if_neg (by simp [hd]), hp]

/-- A request the port answers with `Err` (rules R9, R232). -/
theorem memRead_err {a n : Nat} {s : State} (hn : 0 < n) (hs : a + n ≤ s.cfg.sourceSize)
    (hd : s.cfg.touchesDevice a n = false) (hp : s.nextAnswer = .err) :
    memRead a n s = .next (.err, s.afterRequest a n) := by
  unfold memRead
  rw [if_neg (by omega), if_neg (by omega), if_neg (by simp [hd]), hp]

theorem State.nextAnswer_ok_or_err (s : State) : s.nextAnswer = .ok ∨ s.nextAnswer = .err := by
  cases s.nextAnswer <;> simp

/-- A port that stays `Ok` answers `Ok` next, and stays so after the request. -/
theorem State.PortStaysOk.next {s : State} (h : s.PortStaysOk) : s.nextAnswer = .ok := by
  unfold State.nextAnswer
  split
  · rename_i a l hc hl
    rcases h with h | h
    · simp [h] at hc
    · exact h a (by simp [hl])
  · rfl

theorem State.PortStaysOk.afterRequest {s : State} (h : s.PortStaysOk) (a n : Nat) :
    (s.afterRequest a n).PortStaysOk :=
  h.imp id (fun h b hb => h b (List.mem_of_mem_tail hb))

@[simp] theorem State.portBytes_length (s : State) (a n : Nat) : (s.portBytes a n).length = n := by
  simp [State.portBytes]

theorem State.portBytes_getElem (s : State) (a n j : Nat) (h : j < (s.portBytes a n).length) :
    (s.portBytes a n)[j] = s.portByte (s.draws + j) (a + j) := by simp [State.portBytes]

/-- With no byte of the region written during the run, the port returns the memory's bytes (rule R75). -/
theorem State.portBytes_untouched {s : State} (h : s.touched = []) (a n : Nat) :
    s.portBytes a n = s.mem.bytes a n := by
  simp [State.portBytes, Memory.bytes, State.portByte, h]

/-! ### Regions -/

/-- A range inside another touches a device only if the other does (rule R72). -/
theorem Config.touchesDevice_mono {c : Config} {a n b m : Nat} (h : c.touchesDevice a n = false)
    (h1 : a ≤ b) (h2 : b + m ≤ a + n) : c.touchesDevice b m = false := by
  rw [Config.touchesDevice, List.any_eq_false] at *
  intro r hr
  have := h r hr
  simp only [decide_eq_true_eq, not_lt] at *
  omega

theorem State.regionInvalid_eq_false {s : State} :
    s.regionInvalid = false ↔ s.len.toNat = 0 ∨ s.src.toNat + s.len.toNat ≤ s.cfg.sourceSize := by
  simp [State.regionInvalid]
  omega

theorem State.regionInvalid_eq_true {s : State} :
    s.regionInvalid = true ↔ 0 < s.len.toNat ∧ s.cfg.sourceSize < s.src.toNat + s.len.toNat := by
  simp [State.regionInvalid]

theorem State.blockCount_toNat (s : State) : s.blockCount.toNat = s.len.toNat / 16 := by
  simp [State.blockCount, Nat.shiftRight_eq_div_pow]

theorem State.remainder_eq (s : State) : s.remainder = s.len.toNat % 16 := by
  simp [State.remainder]

/-! ### An agent's store -/

/-- Everything a store that answers can do (rules R66, R72, R77). -/
theorem storeByte_cases {a : Nat} {v : Byte} {s t : State} (h : storeByte a v s = .next t) :
    a < s.cfg.sourceSize ∧ s.cfg.touchesDevice a 1 = false ∧
    ((s.status.busy && s.inRegion a) = false ∧ t = { s with mem := s.mem.write a v } ∨
     (s.status.busy && s.inRegion a) = true ∧ t = ({ s with mem := s.mem.write a v } : State).breach a) := by
  unfold storeByte at h
  split at h
  · cases h
  · split at h
    · cases h
    · rename_i h1 h2
      refine ⟨by omega, by simpa using h2, ?_⟩
      simp only at h
      split at h <;> cases h
      · exact .inr ⟨by assumption, rfl⟩
      · exact .inl ⟨eq_false_of_ne_true (by assumption), rfl⟩

/-- Everything a breach can do: the address is listed, and if the run has read it already, what it read at the listed addresses is
drawn anew (rule R77). -/
theorem State.breach_cases (s : State) (a : Nat) :
    (s.bytesRead ≤ a - s.src.toNat ∧ s.breach a = { s with touched := insertRising a s.touched }) ∨
    (a - s.src.toNat < s.bytesRead ∧
      s.breach a = ({ s with touched := insertRising a s.touched } : State).redraw) := by
  unfold State.breach
  by_cases h : a - s.src.toNat < s.bytesRead
  · exact .inr ⟨h, by simp [h]⟩
  · exact .inl ⟨by omega, by simp [h]⟩

/-- What a breach leaves as it was. -/
theorem State.breach_frame (s : State) (a : Nat) :
    (s.breach a).cfg = s.cfg ∧ (s.breach a).status = s.status ∧ (s.breach a).seed = s.seed ∧
    (s.breach a).len = s.len ∧ (s.breach a).src = s.src ∧ (s.breach a).result = s.result ∧
    (s.breach a).resultH2 = s.resultH2 ∧ (s.breach a).mem = s.mem ∧ (s.breach a).inputs = s.inputs ∧
    (s.breach a).portAnswers = s.portAnswers ∧ (s.breach a).request = s.request ∧ (s.breach a).reply = s.reply ∧
    (s.breach a).touched = insertRising a s.touched ∧ (s.breach a).w.nb = s.w.nb ∧
    (s.breach a).w.blk = s.w.blk := by
  rcases s.breach_cases a with ⟨-, h⟩ | ⟨-, h⟩ <;> rw [h] <;> simp

/-! ### The register window -/

/-- A slot write changes only the slot it names (rule R117). -/
theorem State.writeSlot_frame (s : State) (r : Slot) (v : Word) :
    (s.writeSlot r v).cfg = s.cfg ∧ (s.writeSlot r v).status = s.status ∧ (s.writeSlot r v).result = s.result ∧
    (s.writeSlot r v).resultH2 = s.resultH2 ∧ (s.writeSlot r v).w = s.w ∧ (s.writeSlot r v).mem = s.mem ∧
    (s.writeSlot r v).touched = s.touched ∧ (s.writeSlot r v).inputs = s.inputs ∧
    (s.writeSlot r v).portAnswers = s.portAnswers ∧ (s.writeSlot r v).request = s.request ∧
    (s.writeSlot r v).reply = s.reply ∧ (s.writeSlot r v).draws = s.draws := by
  cases r <;> simp only [State.writeSlot] <;> (try split) <;> simp

/-- A write while a run is in progress is ignored (rule R39). -/
theorem State.writeSlot_busy {s : State} (h : s.status.busy = true) (r : Slot) (v : Word) : s.writeSlot r v = s := by
  cases r <;> simp [State.writeSlot, h]

end Sys2Proof.Machine
end

