-- ==== Sys2Proof/Laws/Digest.lean ====
section
/-! SUPPORT. The digest function beside the micro-ops (rules R77, R216, R217): rule R216's lanes at each micro-op, that they depend
on the bytes already taken alone, and what BLOCK, TAIL and LFOLD make of them. -/

namespace Sys2Proof.Machine

/-! ### The lanes at each micro-op -/

theorem State.lanesOn_blocks {s : State} (h : s.status.phase = 2 ∨ s.status.phase = 3) (bytes : List Byte) :
    s.lanesOn bytes = digestBlocks bytes s.seed s.w.blk.toNat := by
  unfold State.lanesOn; rcases h with h | h <;> rw [h] <;> rfl

theorem State.lanesOn_tail {s : State} (h : s.status.phase = 4) (bytes : List Byte) :
    s.lanesOn bytes = digestTail tailMixOfThisHardware bytes (digestBlocks bytes s.seed s.w.blk.toNat) := by
  unfold State.lanesOn; rw [h]; rfl

theorem State.lanesOn_length {s : State} (h : s.status.phase = 5) (bytes : List Byte) :
    s.lanesOn bytes =
      digestLength bytes (digestTail tailMixOfThisHardware bytes (digestBlocks bytes s.seed s.w.blk.toNat)) := by
  unfold State.lanesOn; rw [h]; rfl

theorem State.lanesOn_cross {s : State} (h : s.status.phase = 6) (bytes : List Byte) :
    s.lanesOn bytes = digestCross
      (digestLength bytes (digestTail tailMixOfThisHardware bytes (digestBlocks bytes s.seed s.w.blk.toNat))) := by
  unfold State.lanesOn; rw [h]; rfl

theorem State.lanesOn_fmix {s : State} (h : s.status.phase = 7) (bytes : List Byte) :
    s.lanesOn bytes = digestFmix (digestCross
      (digestLength bytes (digestTail tailMixOfThisHardware bytes (digestBlocks bytes s.seed s.w.blk.toNat)))) := by
  unfold State.lanesOn; rw [h]; rfl

/-- The lanes depend on SEED, W.blk, PHASE and the bytes alone. -/
theorem State.lanesOn_congr {s t : State} (h1 : t.seed = s.seed) (h2 : t.w.blk = s.w.blk)
    (h3 : t.status.phase = s.status.phase) (bytes : List Byte) : t.lanesOn bytes = s.lanesOn bytes := by
  unfold State.lanesOn; rw [h1, h2, h3]

/-- The keys depend on W.blk, PHASE and the bytes alone. -/
theorem State.keysOn_congr {s t : State} (h1 : t.w.blk = s.w.blk) (h2 : t.status.phase = s.status.phase)
    (bytes : List Byte) : t.keysOn bytes = s.keysOn bytes := by
  unfold State.keysOn; rw [h1, h2]

/-- The first `n` blocks depend on the first `16·n` bytes alone (rule R216). -/
theorem digestBlocks_congr {bytes bytes' : List Byte} (seed : BitVec 32) (n : Nat)
    (h : bytes.take (16 * n) = bytes'.take (16 * n)) : digestBlocks bytes seed n = digestBlocks bytes' seed n := by
  have piece : ∀ l : List Byte, ∀ b k m : Nat, b + k ≤ m → (l.drop b).take k = ((l.take m).drop b).take k := by
    intro l b k m hm
    rw [List.drop_take, List.take_take, min_eq_left (by omega)]
  induction n with
  | zero => simp [digestBlocks]
  | succ n ih =>
    have hp : bytes.take (16 * n) = bytes'.take (16 * n) := by
      have := congrArg (List.take (16 * n)) h
      rwa [List.take_take, List.take_take, min_eq_left (by omega)] at this
    rw [digestBlocks_succ, digestBlocks_succ, ih hp]
    unfold digestBlock digestBlockKeys
    rw [piece bytes (16 * n) 8 (16 * (n + 1)) (by omega), piece bytes (16 * n + 8) 8 (16 * (n + 1)) (by omega), h,
      ← piece bytes' (16 * n) 8 (16 * (n + 1)) (by omega), ← piece bytes' (16 * n + 8) 8 (16 * (n + 1)) (by omega)]

/-! ### What the micro-ops make of them -/

/-- BLOCK on the 16 bytes of block `W.blk` is one block of rule R216 (rules R172, R173). -/
theorem State.blockRound_lanes (s : State) (bytes : List Byte) :
    ((s.blockRound (leValue ((bytes.drop (16 * s.w.blk.toNat)).take 16))).w.h1,
      (s.blockRound (leValue ((bytes.drop (16 * s.w.blk.toNat)).take 16))).w.h2) =
      digestBlock bytes (s.w.h1, s.w.h2) s.w.blk.toNat := by
  have k1 : (leValue ((bytes.drop (16 * s.w.blk.toNat)).take 16)).extractLsb' 0 64 =
      (digestBlockKeys bytes s.w.blk.toNat).1 := by
    rw [leValue_low_half _ (by simp), List.take_take]; rfl
  have k2 : (leValue ((bytes.drop (16 * s.w.blk.toNat)).take 16)).extractLsb' 64 64 =
      (digestBlockKeys bytes s.w.blk.toNat).2 := by
    rw [leValue_high_half _ (by simp), List.drop_take, List.drop_drop]; rfl
  rw [State.blockRound_w_h1, State.blockRound_w_h2, k1, k2]
  rfl

/-- TAIL on the bytes after the last full block is step 3 of rule R216 (rules R191, R192). -/
theorem State.tailFold_lanes (s : State) (bytes : List Byte) :
    ((s.tailFold (bytes.length % 16) (leValue (bytes.drop (16 * (bytes.length / 16))))).w.h1,
      (s.tailFold (bytes.length % 16) (leValue (bytes.drop (16 * (bytes.length / 16))))).w.h2) =
      digestTail tailMixOfThisHardware bytes (s.w.h1, s.w.h2) := by
  have hd : (bytes.drop (16 * (bytes.length / 16))).length = bytes.length % 16 := by simp; omega
  have k1 : (leValue (bytes.drop (16 * (bytes.length / 16)))).extractLsb' 0 64 = (digestTailKeys bytes).1 := by
    rw [leValue_low_half _ (by omega), digestTailKeys, keySum_eq_le64 _ _ _ (by omega) (by omega)]
    by_cases h : bytes.length % 16 ≤ 8
    · rw [min_eq_left h, List.take_of_length_le (by omega), List.take_of_length_le (by omega)]
    · rw [min_eq_right (by omega)]
  have k2 : 9 ≤ bytes.length % 16 →
      (leValue (bytes.drop (16 * (bytes.length / 16)))).extractLsb' 64 64 = (digestTailKeys bytes).2 := by
    intro h9
    have hk : ((bytes.drop (16 * (bytes.length / 16) + 8)).take (bytes.length % 16 - 8)) =
        bytes.drop (16 * (bytes.length / 16) + 8) := List.take_of_length_le (by simp; omega)
    rw [leValue_high_half _ (by omega), digestTailKeys, List.drop_drop]
    simp only
    rw [keySum_eq_le64 _ _ _ (by omega) (by omega), hk]
  rw [State.tailFold_w_h1, State.tailFold_w_h2, k1]
  by_cases h9 : 9 ≤ bytes.length % 16
  · rw [if_pos h9, if_pos h9, k2 h9]; simp only [digestTail, if_pos h9]; rfl
  · rw [if_neg h9]; simp only [digestTail, if_neg h9]

/-- A choice of the region's bytes has the length LFOLD folds (rule R210). -/
theorem State.IsChoice.length_eq {s : State} {bytes : List Byte} (h : s.IsChoice bytes) :
    BitVec.ofNat 64 bytes.length = s.len := by
  rw [h.1, BitVec.ofNat_toNat, BitVec.setWidth_eq]

/-- The memory's bytes are a choice (rule R75). -/
theorem State.isChoice_regionBytes (s : State) : s.IsChoice s.regionBytes := by
  refine ⟨by simp [State.regionBytes], fun i hi _ => ?_⟩
  have hl : i < (s.mem.bytes s.src.toNat s.len.toNat).length := by simpa using hi
  rw [State.regionBytes, List.getD_eq_getElem _ _ hl, Memory.bytes_getElem]

end Sys2Proof.Machine
end

