-- ==== Sys2Proof/Laws/Exec.lean ====
section
/-! SUPPORT. What one instruction can do: an inversion lemma for each meaning with more than one outcome, and the frame every
instruction keeps. -/

namespace Sys2Proof.Machine

/-! ### Host commands -/

theorem execHash_cases {s t : State} (h : execHash s = .next t) :
    (s.status.busy = true ∧ t = s) ∨
    (s.status.busy = false ∧ s.regionInvalid = true ∧ t = s.reject .invalidInput) ∨
    (s.status.busy = false ∧ s.regionInvalid = false ∧
      s.cfg.touchesDevice s.src.toNat s.len.toNat = false ∧ t = s.startRun) := by
  unfold execHash at h
  split at h
  · cases h; exact .inl ⟨by assumption, rfl⟩
  · split at h
    · cases h; exact .inr (.inl ⟨by simp_all, by assumption, rfl⟩)
    · split at h
      · cases h
      · cases h; exact .inr (.inr ⟨by simp_all, by simp_all, by simp_all, rfl⟩)

theorem execAbort_cases {s t : State} (h : execAbort s = .next t) :
    (s.status.busy = true ∧ t = s.stopRun .aborted) ∨ (s.status.busy = false ∧ t = s) := by
  unfold execAbort at h
  split at h <;> cases h <;> simp_all

theorem execClear_cases {s t : State} (h : execClear s = .next t) :
    (s.status.busy = true ∧ t = s) ∨ (s.status.busy = false ∧ t = s.clearError) := by
  unfold execClear at h
  split at h <;> cases h <;> simp_all

theorem reservedCommand_cases {s t : State} (h : reservedCommand s = .next t) :
    (s.status.busy = true ∧ t = s) ∨ (s.status.busy = false ∧ t = s.reject .illegalCmd) := by
  unfold reservedCommand at h
  split at h <;> cases h <;> simp_all

/-! ### Micro-ops that read the source -/

theorem execBlock_cases {s t : State} (h : execBlock s = .next t) :
    s.blockAddress s.w.blk + 16 ≤ s.cfg.sourceSize ∧ s.cfg.touchesDevice (s.blockAddress s.w.blk) 16 = false ∧
    ((s.nextAnswer = .ok ∧
        t = (s.afterRequest (s.blockAddress s.w.blk) 16).blockRound
          (leValue (s.portBytes (s.blockAddress s.w.blk) 16))) ∨
     (s.nextAnswer = .err ∧ t = (s.afterRequest (s.blockAddress s.w.blk) 16).stopRun .busError)) := by
  unfold execBlock blockLoad at h
  split at h
  · rename_i v s' hm
    cases h
    rcases memRead_cases hm with ⟨h0, -⟩ | ⟨-, h1, h2, rfl, h3 | h3⟩
    · cases h0
    · cases h3.2; exact ⟨h1, h2, .inl ⟨h3.1, rfl⟩⟩
    · cases h3.2
  · rename_i s' hm
    cases h
    rcases memRead_cases hm with ⟨h0, -⟩ | ⟨-, h1, h2, rfl, h3 | h3⟩
    · cases h0
    · cases h3.2
    · exact ⟨h1, h2, .inr ⟨h3.1, rfl⟩⟩
  · cases h
  · cases h

theorem execTail_cases {s t : State} (h : execTail s = .next t) :
    (s.remainder = 0 ∧ t = s.tailFold 0 0) ∨
    (0 < s.remainder ∧ s.tailAddress + s.remainder ≤ s.cfg.sourceSize ∧
      s.cfg.touchesDevice s.tailAddress s.remainder = false ∧
      ((s.nextAnswer = .ok ∧
          t = (s.afterRequest s.tailAddress s.remainder).tailFold s.remainder
            (leValue (s.portBytes s.tailAddress s.remainder))) ∨
       (s.nextAnswer = .err ∧ t = (s.afterRequest s.tailAddress s.remainder).stopRun .busError))) := by
  unfold execTail at h
  split at h
  · rename_i v s' hm
    cases h
    rcases memRead_cases hm with ⟨h0, h1, h2⟩ | ⟨h0, h1, h2, rfl, h3 | h3⟩
    · cases h1; subst h2; exact .inl ⟨h0, by rw [h0]⟩
    · cases h3.2; exact .inr ⟨h0, h1, h2, .inl ⟨h3.1, rfl⟩⟩
    · cases h3.2
  · rename_i s' hm
    cases h
    rcases memRead_cases hm with ⟨-, h1, -⟩ | ⟨h0, h1, h2, rfl, h3 | h3⟩
    · cases h1
    · cases h3.2
    · exact .inr ⟨h0, h1, h2, .inr ⟨h3.1, rfl⟩⟩
  · cases h
  · cases h

/-! ### The frame of every instruction -/

/-- No instruction writes the parameters, SEED, LEN, SRC, the source memory, the pending inputs or the bus reply. -/
theorem exec_frame {i : Instr} {s t : State} (h : exec i s = .next t) :
    t.cfg = s.cfg ∧ t.seed = s.seed ∧ t.len = s.len ∧ t.src = s.src ∧ t.mem = s.mem ∧ t.inputs = s.inputs ∧
    t.reply = s.reply := by
  cases i with
  | hash => rcases execHash_cases h with ⟨-, rfl⟩ | ⟨-, -, rfl⟩ | ⟨-, -, -, rfl⟩ <;> simp
  | abort => rcases execAbort_cases h with ⟨-, rfl⟩ | ⟨-, rfl⟩ <;> simp
  | clear => rcases execClear_cases h with ⟨-, rfl⟩ | ⟨-, rfl⟩ <;> simp
  | block => rcases execBlock_cases h with ⟨-, -, ⟨-, rfl⟩ | ⟨-, rfl⟩⟩ <;> simp
  | tail => rcases execTail_cases h with ⟨-, rfl⟩ | ⟨-, -, -, ⟨-, rfl⟩ | ⟨-, rfl⟩⟩ <;> simp
  | nop => cases h; simp
  | idle => cases h; simp
  | init => cases h; simp
  | lfold => cases h; simp
  | xlane => cases h; simp
  | fmix => cases h; simp
  | combine => cases h; simp
  | reserved4 | reserved5 | reserved6 | reserved7 | reserved8 | reserved9 | reservedA | reservedB | reservedC
  | reservedD | reservedE | reservedF =>
    rcases reservedCommand_cases h with ⟨-, rfl⟩ | ⟨-, rfl⟩ <;> simp
  | phaseReserved8 | phaseReserved9 | phaseReservedA | phaseReservedB | phaseReservedC | phaseReservedD
  | phaseReservedE | phaseReservedF => cases h

/-- Only COMBINE writes RESULT and RESULT_H2 (rules R35, R36, R213). -/
theorem exec_result {i : Instr} {s t : State} (hi : i ≠ .combine) (h : exec i s = .next t) :
    t.result = s.result ∧ t.resultH2 = s.resultH2 := by
  cases i with
  | hash => rcases execHash_cases h with ⟨-, rfl⟩ | ⟨-, -, rfl⟩ | ⟨-, -, -, rfl⟩ <;> simp
  | abort => rcases execAbort_cases h with ⟨-, rfl⟩ | ⟨-, rfl⟩ <;> simp
  | clear => rcases execClear_cases h with ⟨-, rfl⟩ | ⟨-, rfl⟩ <;> simp
  | block => rcases execBlock_cases h with ⟨-, -, ⟨-, rfl⟩ | ⟨-, rfl⟩⟩ <;> simp
  | tail => rcases execTail_cases h with ⟨-, rfl⟩ | ⟨-, -, -, ⟨-, rfl⟩ | ⟨-, rfl⟩⟩ <;> simp
  | nop => cases h; simp
  | idle => cases h; simp
  | init => cases h; simp
  | lfold => cases h; simp
  | xlane => cases h; simp
  | fmix => cases h; simp
  | combine => exact absurd rfl hi
  | reserved4 | reserved5 | reserved6 | reserved7 | reserved8 | reserved9 | reservedA | reservedB | reservedC
  | reservedD | reservedE | reservedF =>
    rcases reservedCommand_cases h with ⟨-, rfl⟩ | ⟨-, rfl⟩ <;> simp
  | phaseReserved8 | phaseReserved9 | phaseReservedA | phaseReservedB | phaseReservedC | phaseReservedD
  | phaseReservedE | phaseReservedF => cases h

/-- Every change of STATUS an instruction can make (rules R110 to R115, R171 to R213, R236): none, error entry, the start of a
run, CLEAR's, a named successor, or COMBINE's. -/
theorem exec_status {i : Instr} {s t : State} (h : exec i s = .next t) :
    t.status = s.status ∨
    (∃ e, e ≠ ErrCode.none ∧ t.status = s.status.error e ∧ t.result = s.result ∧ t.resultH2 = s.resultH2 ∧
      (e = .busError → (i = .block ∨ i = .tail) ∧ s.cfg.portCanFail = true)) ∨
    (i = .hash ∧ s.status.busy = false ∧ t.status = s.status.accepted) ∨
    (i = .clear ∧ s.status.busy = false ∧ t.status = s.status.cleared) ∨
    (∃ p, i.format = .phase ∧ i ≠ .combine ∧ t.status = s.status.toPhase p) ∨
    (i = .combine ∧ t.status = s.status.completed ∧ t.result = t.w.h1 ∧ t.resultH2 = t.w.h2) := by
  have fail : s.nextAnswer = .err → s.cfg.portCanFail = true := by
    intro hh; unfold State.nextAnswer at hh; split at hh
    · assumption
    · cases hh
  cases i with
  | hash =>
    rcases execHash_cases h with ⟨-, rfl⟩ | ⟨-, -, rfl⟩ | ⟨hb, -, -, rfl⟩
    · exact .inl rfl
    · exact .inr (.inl ⟨.invalidInput, by simp, rfl, rfl, rfl, by simp⟩)
    · exact .inr (.inr (.inl ⟨rfl, hb, rfl⟩))
  | abort =>
    rcases execAbort_cases h with ⟨-, rfl⟩ | ⟨-, rfl⟩
    · exact .inr (.inl ⟨.aborted, by simp, rfl, rfl, rfl, by simp⟩)
    · exact .inl rfl
  | clear =>
    rcases execClear_cases h with ⟨-, rfl⟩ | ⟨hb, rfl⟩
    · exact .inl rfl
    · exact .inr (.inr (.inr (.inl ⟨rfl, hb, rfl⟩)))
  | block =>
    rcases execBlock_cases h with ⟨-, -, ⟨-, rfl⟩ | ⟨hn, rfl⟩⟩
    · exact .inr (.inr (.inr (.inr (.inl ⟨_, rfl, by simp, State.blockRound_status _ _⟩))))
    · exact .inr (.inl ⟨.busError, by simp, rfl, rfl, rfl, fun _ => ⟨.inl rfl, fail hn⟩⟩)
  | tail =>
    rcases execTail_cases h with ⟨-, rfl⟩ | ⟨-, -, -, ⟨-, rfl⟩ | ⟨hn, rfl⟩⟩
    · exact .inr (.inr (.inr (.inr (.inl ⟨_, rfl, by simp, rfl⟩))))
    · exact .inr (.inr (.inr (.inr (.inl ⟨_, rfl, by simp, rfl⟩))))
    · exact .inr (.inl ⟨.busError, by simp, rfl, rfl, rfl, fun _ => ⟨.inr rfl, fail hn⟩⟩)
  | nop => cases h; simp
  | idle => cases h; simp
  | init => cases h; exact .inr (.inr (.inr (.inr (.inl ⟨_, rfl, by simp, rfl⟩))))
  | lfold => cases h; exact .inr (.inr (.inr (.inr (.inl ⟨_, rfl, by simp, rfl⟩))))
  | xlane => cases h; exact .inr (.inr (.inr (.inr (.inl ⟨_, rfl, by simp, rfl⟩))))
  | fmix => cases h; exact .inr (.inr (.inr (.inr (.inl ⟨_, rfl, by simp, rfl⟩))))
  | combine => cases h; exact .inr (.inr (.inr (.inr (.inr ⟨rfl, rfl, rfl, rfl⟩))))
  | reserved4 | reserved5 | reserved6 | reserved7 | reserved8 | reserved9 | reservedA | reservedB | reservedC
  | reservedD | reservedE | reservedF =>
    rcases reservedCommand_cases h with ⟨-, rfl⟩ | ⟨-, rfl⟩
    · exact .inl rfl
    · exact .inr (.inl ⟨.illegalCmd, by simp, rfl, rfl, rfl, by simp⟩)
  | phaseReserved8 | phaseReserved9 | phaseReservedA | phaseReservedB | phaseReservedC | phaseReservedD
  | phaseReservedE | phaseReservedF => cases h

end Sys2Proof.Machine
end

