-- ==== Sys2Proof/Laws/PerInstr.lean ====
section
/-! SUPPORT. The laws made instruction by instruction (LAWS.json): the row of an instruction's format at its code is that
instruction (rules R91, R93). -/

namespace Sys2Proof.Laws.CodeRoundTrip

/-- The table's row at the instruction's code is the instruction. -/
def Statement (i : Instr) : Prop := decodeCode i.format i.code = .ok i

theorem nop : Statement .nop := rfl
theorem hash : Statement .hash := rfl
theorem abort : Statement .abort := rfl
theorem clear : Statement .clear := rfl
theorem reserved4 : Statement .reserved4 := rfl
theorem reserved5 : Statement .reserved5 := rfl
theorem reserved6 : Statement .reserved6 := rfl
theorem reserved7 : Statement .reserved7 := rfl
theorem reserved8 : Statement .reserved8 := rfl
theorem reserved9 : Statement .reserved9 := rfl
theorem reservedA : Statement .reservedA := rfl
theorem reservedB : Statement .reservedB := rfl
theorem reservedC : Statement .reservedC := rfl
theorem reservedD : Statement .reservedD := rfl
theorem reservedE : Statement .reservedE := rfl
theorem reservedF : Statement .reservedF := rfl
theorem idle : Statement .idle := rfl
theorem init : Statement .init := rfl
theorem block : Statement .block := rfl
theorem tail : Statement .tail := rfl
theorem lfold : Statement .lfold := rfl
theorem xlane : Statement .xlane := rfl
theorem fmix : Statement .fmix := rfl
theorem combine : Statement .combine := rfl
theorem phaseReserved8 : Statement .phaseReserved8 := rfl
theorem phaseReserved9 : Statement .phaseReserved9 := rfl
theorem phaseReservedA : Statement .phaseReservedA := rfl
theorem phaseReservedB : Statement .phaseReservedB := rfl
theorem phaseReservedC : Statement .phaseReservedC := rfl
theorem phaseReservedD : Statement .phaseReservedD := rfl
theorem phaseReservedE : Statement .phaseReservedE := rfl
theorem phaseReservedF : Statement .phaseReservedF := rfl

end Sys2Proof.Laws.CodeRoundTrip
end

