-- ==== Sys2Proof/Laws/Step.lean ====
section
/-! SUPPORT. What one step of the machine can do. -/

namespace Sys2Proof.Machine

/-- The PHASE code the engine's turn runs: IDLE's outside a run (rules R31, R170). -/
def State.engineCode (s : State) : BitVec 4 := if s.status.busy then s.status.phase else 0

/-- The engine's turn runs the row of its PHASE code (rule R170). -/
theorem engineTurn_eq (s : State) {i : Instr} (hf : i.format = .phase) (hc : i.code = s.engineCode) :
    engineTurn s = exec i s := by
  have hw : s.engineWord = [s.engineCode.setWidth 8] := by
    unfold State.engineWord State.engineCode; split <;> rfl
  unfold engineTurn execWord
  rw [hw, decode_phase, ← hc, ← hf, decodeCode_code]

theorem engineTurn_exec (s : State) :
    ∃ i : Instr, i.format = .phase ∧ i.code = s.engineCode ∧ engineTurn s = exec i s := by
  obtain ⟨i, -, hf, hc⟩ := decodeCode_spec .phase s.engineCode
  exact ⟨i, hf, hc, engineTurn_eq s hf hc⟩

/-- A command word runs the row of its low nibble (rule R110). -/
theorem execWord_ctrl (s : State) (n : Nat) (hn : n = 8 ∨ n = 4) (v : Word) :
    ∃ i : Instr, i.format = .ctrl ∧ i.code = v.extractLsb' 0 4 ∧ execWord .ctrl (bytesLE n v.toNat) s = exec i s := by
  obtain ⟨i, hi, hf, hc⟩ := decodeCode_spec .ctrl (v.extractLsb' 0 4)
  exact ⟨i, hf, hc, by unfold execWord; rw [decode_ctrl n hn, hi]⟩

/-- Only the slot CTRL at its own offset takes a command (rules R61, R62). -/
theorem resolve_command {c : Config} {addr width : Nat} {part : Part} (h : c.resolve addr width = some (.ctrl, part))
    (hp : part ≠ .hi) : addr = c.regBase ∧ (width = 64 ∨ width = 32) := by
  have at0 {off : Nat} (h : Slot.atOffset off = some .ctrl) : off = 0 := by
    have := List.find?_some h
    simp only [Slot.offset, beq_iff_eq] at this
    omega
  unfold Config.resolve at h
  split at h
  · cases h
  · simp only at h
    split at h
    · rename_i hw
      obtain ⟨r, hr, he⟩ := Option.map_eq_some_iff.mp h
      cases he
      exact ⟨by have := at0 hr; omega, .inl hw⟩
    · split at h
      · rename_i hw
        split at h <;> obtain ⟨r, hr, he⟩ := Option.map_eq_some_iff.mp h <;> cases he
        · exact absurd rfl hp
        · exact ⟨by have := at0 hr; omega, .inr hw⟩
      · cases h

/-- Everything a host access that answers can do (rules R61 to R63, R110, R116, R117). -/
theorem accessTurn_cases {a : Access} {s t : State} (h : accessTurn a s = .next t) :
    (∃ addr width r part, a = .read addr width ∧ s.cfg.resolve addr width = some (r, part) ∧
      t = { s with reply := some (part.select (s.readSlot r)) }) ∨
    (∃ width data i, a = .write s.cfg.regBase width data ∧ (width = 64 ∨ width = 32) ∧ i.format = .ctrl ∧
      i.code = data.extractLsb' 0 4 ∧ exec i s = .next t) ∨
    (∃ addr width data r v, a = .write addr width data ∧ t = s.writeSlot r v) := by
  cases a with
  | read addr width =>
    simp only [accessTurn, readAccess] at h
    split at h <;> cases h
    exact .inl ⟨addr, width, _, _, rfl, by assumption, rfl⟩
  | write addr width data =>
    simp only [accessTurn, writeAccess] at h
    split at h
    · cases h; exact .inr (.inr ⟨addr, width, data, .ctrl, 0, rfl, rfl⟩)
    · rename_i part hp hr
      obtain ⟨rfl, hw⟩ := resolve_command hr hp
      have hn : part.dataBytes = 8 ∨ part.dataBytes = 4 := by cases part <;> simp [Part.dataBytes]
      obtain ⟨i, hf, hc, hi⟩ := execWord_ctrl s _ hn data
      rw [hi] at h
      exact .inr (.inl ⟨width, data, i, rfl, hw, hf, hc, h⟩)
    · cases h; exact .inr (.inr ⟨addr, width, data, _, _, rfl, rfl⟩)
    · cases h

/-- Everything a step that answers can do (rule R20). -/
theorem step_cases {s t : State} (h : step s = .next t) :
    (s.EngineMoves ∧ ∃ i, i.format = .phase ∧ i.code = s.engineCode ∧ exec i s.turnTaken = .next t) ∨
    (∃ addr width rest r part, s.inputs = .access (.read addr width) :: rest ∧
      s.cfg.resolve addr width = some (r, part) ∧
      t = { s.turnTaken with reply := some (part.select (s.readSlot r)) }) ∨
    (∃ width data rest i, s.inputs = .access (.write s.cfg.regBase width data) :: rest ∧ (width = 64 ∨ width = 32) ∧
      i.format = .ctrl ∧ i.code = data.extractLsb' 0 4 ∧ exec i s.turnTaken = .next t) ∨
    (∃ addr width data rest r v, s.inputs = .access (.write addr width data) :: rest ∧ t = s.turnTaken.writeSlot r v) ∨
    (∃ a v rest, s.inputs = .store a v :: rest ∧ storeByte a v s.turnTaken = .next t) ∨
    (∃ rest, s.inputs = .reset :: rest ∧ t = s.turnTaken.hardwareReset) := by
  have ht : ∀ rest i, s.inputs = i :: rest → ({ s with inputs := rest } : State) = s.turnTaken := by
    intro rest i hi; simp [State.turnTaken, hi]
  unfold step nextTurn at h
  split at h
  · rename_i hi
    have hs : s.turnTaken = s := by
      cases s; simp only at hi; subst hi; rfl
    obtain ⟨i, hf, hc, he⟩ := engineTurn_exec s
    exact .inl ⟨.inl hi, i, hf, hc, by rw [hs, ← he]; exact h⟩
  · rename_i i rest hi
    rw [ht rest i hi] at h
    cases i with
    | engine =>
      obtain ⟨i, hf, hc, he⟩ := engineTurn_exec s.turnTaken
      exact .inl ⟨.inr ⟨rest, hi⟩, i, hf, hc, by rw [← he]; exact h⟩
    | access a =>
      rcases accessTurn_cases h with ⟨addr, width, r, part, rfl, hr, ht⟩ | ⟨width, data, i, rfl, hw, hf, hc, he⟩ |
        ⟨addr, width, data, r, v, rfl, ht⟩
      · exact .inr (.inl ⟨addr, width, rest, r, part, hi, hr, ht⟩)
      · exact .inr (.inr (.inl ⟨width, data, rest, i, hi, hw, hf, hc, he⟩))
      · exact .inr (.inr (.inr (.inl ⟨addr, width, data, rest, r, v, hi, ht⟩)))
    | store a v => exact .inr (.inr (.inr (.inr (.inl ⟨a, v, rest, hi, h⟩))))
    | reset => cases h; exact .inr (.inr (.inr (.inr (.inr ⟨rest, hi, rfl⟩))))

/-- On the engine's turn a step is the engine's (rule R170). -/
theorem step_engineMoves {s : State} (h : s.EngineMoves) : step s = engineTurn s.turnTaken := by
  rcases h with h | ⟨rest, h⟩
  · have hs : s.turnTaken = s := by cases s; simp only at h; subst h; rfl
    rw [hs]; simp [step, nextTurn, h]
  · simp [step, nextTurn, h, State.turnTaken, inputTurn]

/-- With an event pending a step is that event's turn (rule R20). -/
theorem step_input {s : State} {i rest} (h : s.inputs = i :: rest) : step s = inputTurn i s.turnTaken := by
  simp [step, nextTurn, h, State.turnTaken]

/-- A step of a running run is the micro-op PHASE names (rule R170). -/
theorem step_microOp {s : State} (h : s.EngineMoves) {i : Instr} (hf : i.format = .phase) (hb : s.status.busy = true) (hc : i.code = s.status.phase) : step s = exec i s.turnTaken := by
  rw [step_engineMoves h]; exact engineTurn_eq _ hf (by simp [State.engineCode, hb, hc])

/-- Each slot's offset, and the offset of its high half, resolves to that slot (rules R22, R61, R62). -/
theorem resolve_slot (c : Config) (r : Slot) : c.resolve (c.regBase + r.offset) 64 = some (r, .whole) ∧
    c.resolve (c.regBase + r.offset) 32 = some (r, .lo) ∧ c.resolve (c.regBase + r.offset + 4) 32 = some (r, .hi) := by
  cases r <;> simp [Config.resolve, Slot.offset, Slot.atOffset, Slot.all, Nat.add_assoc]

/-- A multiple of 8 inside the window is some slot's offset (rule R22). -/
theorem exists_slot {off : Nat} (h : off < 64) (h8 : off % 8 = 0) : ∃ r : Slot, r.offset = off := by
  obtain ⟨k, rfl⟩ : ∃ k, off = 8 * k := ⟨off / 8, by omega⟩
  have : k < 8 := by omega
  interval_cases k
  · exact ⟨.ctrl, rfl⟩
  · exact ⟨.status, rfl⟩
  · exact ⟨.seed, rfl⟩
  · exact ⟨.len, rfl⟩
  · exact ⟨.src, rfl⟩
  · exact ⟨.result, rfl⟩
  · exact ⟨.resultH2, rfl⟩
  · exact ⟨.reserved, rfl⟩

/-- Every access rules R61 and R62 admit resolves to a slot and a part. -/
theorem resolve_of_wf {c : Config} {a : Access} (h : a.wf c.regBase = true) : ∃ r, 
    (a.width = 64 ∧ a.addr = c.regBase + r.offset ∧ c.resolve a.addr a.width = some (r, .whole)) ∨
    (a.width = 32 ∧ a.addr = c.regBase + r.offset ∧ c.resolve a.addr a.width = some (r, .lo)) ∨
    (a.width = 32 ∧ a.addr = c.regBase + r.offset + 4 ∧ c.resolve a.addr a.width = some (r, .hi)) := by
  simp only [Access.wf, accessWidthOk, accessInWindow, accessAligned, Bool.and_eq_true, Bool.or_eq_true, beq_iff_eq, decide_eq_true_eq] at h
  obtain ⟨⟨h1 | h1, h2, h3⟩, h4⟩ := h
  · rw [h1] at h3 h4 ⊢
    obtain ⟨r, hr⟩ := exists_slot (off := a.addr - c.regBase) (by omega) (by omega)
    have : a.addr = c.regBase + r.offset := by omega
    exact ⟨r, .inl ⟨rfl, this, by rw [this]; exact (resolve_slot c r).1⟩⟩
  · rw [h1] at h3 h4 ⊢
    by_cases h8 : (a.addr - c.regBase) % 8 = 0
    · obtain ⟨r, hr⟩ := exists_slot (off := a.addr - c.regBase) (by omega) (by omega)
      have : a.addr = c.regBase + r.offset := by omega
      exact ⟨r, .inr (.inl ⟨rfl, this, by rw [this]; exact (resolve_slot c r).2.1⟩)⟩
    · obtain ⟨r, hr⟩ := exists_slot (off := a.addr - c.regBase - 4) (by omega) (by omega)
      have : a.addr = c.regBase + r.offset + 4 := by omega
      exact ⟨r, .inr (.inr ⟨rfl, this, by rw [this]; exact (resolve_slot c r).2.2⟩)⟩

end Sys2Proof.Machine
end

