-- ==== Sys2Proof/Tests/Slice0.lean ====
section
/-! SUPPORT. Tests of the model: words written out from the spec's encodings, ill-formed terms the checks refuse, single steps
against the vectors and traces of 95_test_vectors.md and the rules' own examples, and for each obligation with hypotheses a
concrete state that meets them. -/

namespace Sys2Proof.Tests

open Sys2Proof Sys2Proof.Machine

/-! ### Small states -/

/-- STATUS of a run in phase `p`. -/
def running (p : BitVec 4) : Status := { busy := true, done := false, err := false, errcode := .none, phase := p }

/-- STATUS of a completed run. -/
def completedStatus : Status := { busy := false, done := true, err := false, errcode := .none, phase := 0 }

/-- The bytes `01..n` from `a` on. -/
def countingBytes (a n : Nat) : Memory := (List.range n).map (fun j => (a + j, BitVec.ofNat 8 (j + 1)))

/-- The lanes with the block counters; the keys 0. -/
def lanes (h1 h2 nb blk : Word) : Working := { h1 := h1, h2 := h2, k1 := 0, k2 := 0, nb := nb, blk := blk }

/-- Trace T8's machine: seed 0, the 25 bytes `01..19` at 0x1000, a run in phase `p`. -/
def t8 (p : BitVec 4) (w : Working) : State :=
  { State.reset with mem := countingBytes 0x1000 25, src := 0x1000, len := 25, status := running p, w := w }

/-- Program P2's machine before its HASH: `DE AD BE EF` at 0x2000, LEN 4. -/
def p2 : State :=
  { State.reset with mem := [(0x2000, 0xDE), (0x2001, 0xAD), (0x2002, 0xBE), (0x2003, 0xEF)], src := 0x2000, len := 4 }

/-- `s` with one event pending. -/
def State.given (s : State) (i : Input) : State := { s with inputs := [i] }

/-- `s` with a host write pending, at an offset of the window. -/
def State.wr (s : State) (offset width : Nat) (v : Word) : State :=
  { s with inputs := [.access (.write (s.cfg.regBase + offset) width v)] }

/-- `s` with a host read pending, at an offset of the window. -/
def State.rd (s : State) (offset width : Nat) : State :=
  { s with inputs := [.access (.read (s.cfg.regBase + offset) width)] }

/-- A value of the next state; none if there is no next state. -/
def after {α : Type} (o : Host.Outcome State Fault Refusal) (f : State → α) : Option α :=
  match o with
  | .next s => some (f s)
  | .fault _ => none
  | .refused _ => none

/-- The STATUS word after one step. -/
def statusAfter (s : State) : Option Word := after (step s) (fun t => t.status.toWord)

/-- The lanes and the next micro-op after one step. -/
def lanesAfter (s : State) : Option (Word × Word × BitVec 4) :=
  after (step s) (fun t => (t.w.h1, t.w.h2, t.status.phase))

/-- The refusal of one step. -/
def refusalOf (s : State) : Option Refusal :=
  match step s with
  | .refused r => some r
  | .next _ => none
  | .fault _ => none

/-! ### Decoding: every row, its word written out from rules R90, R91 and R93 -/

theorem test_decode_commands_0_to_7 :
    decode .ctrl [0b00000000, 0, 0, 0, 0, 0, 0, 0] = .ok .nop ∧
    decode .ctrl [0b00000001, 0, 0, 0, 0, 0, 0, 0] = .ok .hash ∧
    decode .ctrl [0b00000010, 0, 0, 0, 0, 0, 0, 0] = .ok .abort ∧
    decode .ctrl [0b00000011, 0, 0, 0, 0, 0, 0, 0] = .ok .clear ∧
    decode .ctrl [0b00000100, 0, 0, 0, 0, 0, 0, 0] = .ok .reserved4 ∧
    decode .ctrl [0b00000101, 0, 0, 0, 0, 0, 0, 0] = .ok .reserved5 ∧
    decode .ctrl [0b00000110, 0, 0, 0, 0, 0, 0, 0] = .ok .reserved6 ∧
    decode .ctrl [0b00000111, 0, 0, 0, 0, 0, 0, 0] = .ok .reserved7 := by decide

theorem test_decode_commands_8_to_15 :
    decode .ctrl [0b00001000, 0, 0, 0] = .ok .reserved8 ∧ decode .ctrl [0b00001001, 0, 0, 0] = .ok .reserved9 ∧
    decode .ctrl [0b00001010, 0, 0, 0] = .ok .reservedA ∧ decode .ctrl [0b00001011, 0, 0, 0] = .ok .reservedB ∧
    decode .ctrl [0b00001100, 0, 0, 0] = .ok .reservedC ∧ decode .ctrl [0b00001101, 0, 0, 0] = .ok .reservedD ∧
    decode .ctrl [0b00001110, 0, 0, 0] = .ok .reservedE ∧ decode .ctrl [0b00001111, 0, 0, 0] = .ok .reservedF := by decide

theorem test_decode_phases_0_to_7 :
    decode .phase [0b0000] = .ok .idle ∧ decode .phase [0b0001] = .ok .init ∧ decode .phase [0b0010] = .ok .block ∧
    decode .phase [0b0011] = .ok .tail ∧ decode .phase [0b0100] = .ok .lfold ∧ decode .phase [0b0101] = .ok .xlane ∧
    decode .phase [0b0110] = .ok .fmix ∧ decode .phase [0b0111] = .ok .combine := by decide

theorem test_decode_phases_8_to_15 :
    decode .phase [0b1000] = .ok .phaseReserved8 ∧ decode .phase [0b1001] = .ok .phaseReserved9 ∧
    decode .phase [0b1010] = .ok .phaseReservedA ∧ decode .phase [0b1011] = .ok .phaseReservedB ∧
    decode .phase [0b1100] = .ok .phaseReservedC ∧ decode .phase [0b1101] = .ok .phaseReservedD ∧
    decode .phase [0b1110] = .ok .phaseReservedE ∧ decode .phase [0b1111] = .ok .phaseReservedF := by decide

/-- The table's rows as the host numbers them: 64-bit CTRL words, 4-bit PHASE codes in one byte. -/
theorem test_decodeTableWord :
    decodeTableWord 64 0x1 = some .hash ∧ decodeTableWord 64 0xF = some .reservedF ∧
    decodeTableWord 8 0x7 = some .combine ∧ decodeTableWord 8 0x10 = none ∧
    decodeTableWord 32 0xFFFFFFF2 = some .abort := by decide

/-- The host's placement: the very next step runs the word (notes/assumptions/10.md). -/
theorem test_withFetchWord :
    statusAfter (State.reset.withFetchWord 64 0x1) = some 0x0101 ∧
    statusAfter (State.reset.withFetchWord 64 0xF) = some 0x0044 ∧
    statusAfter (State.reset.withFetchWord 8 0x1) = some 0x0301 ∧
    statusAfter (State.reset.withFetchWord 8 0x7) = some 0x0002 ∧
    statusAfter (State.reset.withFetchWord 8 0x0) = some 0x0000 := by decide

/-! ### WellFormed: ill-formed terms, each refused -/

theorem smoke_access_width : Access.wf 0 (.read 0x08 16) = false ∧ Access.wf 0 (.read 0x08 64) = true := by decide

theorem smoke_access_below_window : Access.wf 0x100 (.read 0xF8 64) = false ∧ Access.wf 0x100 (.read 0x100 64) = true := by
  decide

theorem smoke_access_above_window :
    Access.wf 0 (.write 0x40 32 0) = false ∧ Access.wf 0 (.write 0x3C 32 0) = true ∧ Access.wf 0 (.write 0x3C 64 0) = false := by
  decide

theorem smoke_access_alignment : Access.wf 0 (.read 0x0C 64) = false ∧ Access.wf 0 (.read 0x0C 32) = true ∧
    Access.wf 0 (.read 0x0E 32) = false := by decide

theorem smoke_command_length : wordWf .ctrl [1, 0] = false ∧ decode .ctrl [1, 0] = .error (.ctrlLength 2) := by decide

theorem smoke_phase_length : wordWf .phase [1, 0] = false ∧ decode .phase [1, 0] = .error (.phaseLength 2) := by decide

theorem smoke_phase_width : wordWf .phase [0x10] = false ∧ decode .phase [0x10] = .error (.phaseWidth 0x10) := by decide

/-! ### The datapath: the examples of rules R144 to R155 -/

/-- Rules R145, R146, R147. -/
theorem test_units :
    add64 0xFFFFFFFFFFFFFFFF 1 = 0 ∧ mul64 c1 c1 = 0xA759859B9F47CF39 ∧ mul64 c1 5 = 0xA6D169D5564BA329 ∧
    shr64 0x8000000000000000 33 = 0x40000000 ∧ shl64 0xEF 56 = 0xEF00000000000000 := by decide

/-- Rule R148. -/
theorem test_rotl64 :
    rotl64 0x0123456789ABCDEF 27 = 0x3C4D5E6F78091A2B ∧ rotl64 0x0123456789ABCDEF 31 = 0xC4D5E6F78091A2B3 ∧
    rotl64 0x0123456789ABCDEF 33 = 0x13579BDE02468ACF ∧ rotl64 0x0123456789ABCDEF 0 = 0x0123456789ABCDEF := by decide

/-- Rules R149, R150. -/
theorem test_mixes :
    mixK1 0x0807060504030201 = 0x84912EA0966DB987 ∧ mixK1 1 = 0x34E09D0B6BDEFE38 ∧
    mixK2 0x100F0E0D0C0B0A09 = 0x1C70DD70C03CDCD6 ∧ mixK2 1 = 0x4E26F5539BB7C37E := by decide

/-- Rules R151, R152. -/
theorem test_rounds :
    roundH1 0 0 0 = 0x52DCE729 ∧ roundH1 0 0 0x0807060504030201 = 0x178124FD7F939672 ∧
    roundH2 0 0x52DCE729 0 = 0x00000001D699DE82 ∧
    roundH2 0 0x178124FD7F939672 0x100F0E0D0C0B0A09 = 0x561DE10AFD457487 := by decide

/-- Rule R153. -/
theorem test_fmix_unit : fmix 1 = 0xB456BCFC34C2CB2C ∧ fmix 0xFFFFFFFFFFFFFFFF = 0x64B5720B4B825F21 := by decide

/-- Rule R155. -/
theorem test_tailK2Mix :
    tailK2Mix 0x09 = 0xC131137567ED3DF4 ∧ tailK2MixWith .mixK2 0x09 = 0x89DC47BE9BFA8718 := by decide

/-- Vectors V4 (with the signed result of rule R213's example) and V4b (90_conflicts.md C2). -/
theorem test_digest_four_bytes :
    hash128 [0xDE, 0xAD, 0xBE, 0xEF] 0 = (0x5A0948FD119E1F2A, 0x58774AC97EA32514) ∧
    hash128Public [0xDE, 0xAD, 0xBE, 0xEF] 0 = 6487796989963411242 ∧
    (hash128 [0xEF, 0xBE, 0xAD, 0xDE] 0).1 = 0x7765B6F702314C16 := by decide

/-- Trace T7: 33 bytes, seed 1234567. -/
theorem test_digest_thirty_three_bytes :
    hash128 ((countingBytes 0 33).map Prod.snd) 1234567 = (0x0BFD1F7D88F622AC, 0xA3AB8EA655F81C73) := by decide

/-- Trace T8, both readings of TAIL_K2_MIX. -/
theorem test_digest_both_readings :
    hash128With .mixK1 ((countingBytes 0 25).map Prod.snd) 0 = (0x992EA8612C89CD60, 0x2044C7CF5BD0B8A6) ∧
    hash128With .mixK2 ((countingBytes 0 25).map Prod.snd) 0 = (0x3FECE78ED8A9BAC7, 0xA44A378691E0EF64) := by decide

/-! ### Micro-ops: one step each, from trace T8 -/

/-- Rule R171's example: seed 1234567, LEN 33; `W.nb = 2`, PHASE BLOCK. -/
theorem test_init : after (step { t8 1 (lanes 7 7 7 7) with seed := 1234567, len := 33 })
    (fun t => (t.w.h1, t.w.h2, t.w.nb, t.w.blk, t.status.toWord)) =
    some (0x12D687, 0x12D687, 2, 0, 0x0201) := by decide

/-- Trace T1: LEN 0 and SRC ignored; the seed is not sign-extended (rule R171). -/
theorem test_init_no_block : lanesAfter { t8 1 (lanes 7 7 7 7) with seed := 0xFFFFFFFF, len := 0 } =
    some (0x00000000FFFFFFFF, 0x00000000FFFFFFFF, 3) := by decide

theorem test_block : after (step (t8 2 (lanes 0 0 1 0)))
    (fun t => (t.w.k1, t.w.k2, t.w.h1, t.w.h2, t.status.phase)) =
    some (0x0807060504030201, 0x100F0E0D0C0B0A09, 0x178124FD7F939672, 0x561DE10AFD457487, 3) := by decide

/-- V-C16: the port answers `Err`. -/
theorem test_block_bus_error :
    statusAfter { t8 2 (lanes 0 0 1 0) with portAnswers := [.err], result := 9 } = some 0x24 := by decide

theorem test_tail : after (step (t8 3 (lanes 0x178124FD7F939672 0x561DE10AFD457487 1 1)))
    (fun t => (t.w.k1, t.w.k2, t.w.h1, t.w.h2, t.status.phase)) =
    some (0x1817161514131211, 0x19, 0x490960E04B4C3D69, 0xC53902C7FA0A246C, 4) := by decide

/-- Trace T1: no tail byte, so no request. -/
theorem test_tail_empty : after (step { t8 3 (lanes 5 6 0 0) with len := 0, src := 0xFFFFFFFFFFFFFFFF })
    (fun t => (t.w.h1, t.w.h2, t.request, t.status.phase)) = some (5, 6, none, 4) := by decide

theorem test_lfold : lanesAfter (t8 4 (lanes 0x490960E04B4C3D69 0xC53902C7FA0A246C 1 1)) =
    some (0x490960E04B4C3D70, 0xC53902C7FA0A2475, 5) := by decide

theorem test_xlane : lanesAfter (t8 5 (lanes 0x490960E04B4C3D70 0xC53902C7FA0A2475 1 1)) =
    some (0x0E4263A8455661E5, 0xD37B66703F60865A, 6) := by decide

theorem test_fmix : lanesAfter (t8 6 (lanes 0x0E4263A8455661E5 0xD37B66703F60865A 1 1)) =
    some (0x121888F2FD42E21A, 0x87161F6E2F46EB46, 7) := by decide

theorem test_combine : after (step (t8 7 (lanes 0x121888F2FD42E21A 0x87161F6E2F46EB46 1 1)))
    (fun t => (t.result, t.resultH2, t.status.toWord)) =
    some (0x992EA8612C89CD60, 0x2044C7CF5BD0B8A6, 0x2) := by decide

theorem test_idle : after (step { p2 with w := lanes 1 2 3 4 }) id = some { p2 with w := lanes 1 2 3 4 } := by decide

/-- Rule R97. -/
theorem test_reserved_phases :
    ∀ p ∈ ([8, 9, 10, 11, 12, 13, 14, 15] : List (BitVec 4)), refusalOf (t8 p (lanes 0 0 1 0)) = some .reservedPhase := by
  decide

/-! ### Commands (95_test_vectors.md section 8) -/

/-- V-C18, and rule R111's example. -/
theorem test_nop : after (step (State.wr p2 0x00 64 0xFFFFFFFFFFFFFFF0)) id = some p2 := by decide

/-- V-C1. -/
theorem test_hash : statusAfter (State.wr p2 0x00 64 0x1) = some 0x0101 := by decide

/-- V-C10, V-C11 and V-C12: the region past, exactly at, and irrelevant to the end of the source space. -/
theorem test_hash_region :
    statusAfter (State.wr { p2 with src := 0xFFFFFFFFFFFFFFF8, len := 0x10 } 0x00 64 0x1) = some 0x0014 ∧
    statusAfter (State.wr { p2 with src := 0xFFFFFFFFFFFFFFF0, len := 0x10 } 0x00 64 0x1) = some 0x0101 ∧
    statusAfter (State.wr { p2 with src := 0xFFFFFFFFFFFFFFFF, len := 0 } 0x00 32 0x1) = some 0x0101 := by decide

/-- V-C7 and V-C9. -/
theorem test_abort :
    after (step (State.wr { t8 2 (lanes 0 0 1 0) with result := 0xD } 0x00 64 0x2))
      (fun t => (t.status.toWord, t.result)) = some (0x0034, 0xD) ∧
    statusAfter (State.wr p2 0x00 64 0x2) = some 0 := by decide

/-- V-C8 and V-C5. -/
theorem test_clear :
    statusAfter (State.wr { p2 with status := (running 0).error .aborted } 0x00 64 0x3) = some 0 ∧
    statusAfter (State.wr (t8 2 (lanes 0 0 1 0)) 0x00 64 0x3) = some 0x0201 := by decide

/-- V-C14's start: a completed run. -/
def p2Done : State := { p2 with status := completedStatus, result := 0xD }

/-- The STATUS word and RESULT after each of some command words. -/
def afterCommands (s : State) (cs : List Word) : List (Option (Word × Word)) :=
  cs.map (fun c => after (step (State.wr s 0x00 64 c)) (fun t => (t.status.toWord, t.result)))

/-- V-C13 and V-C14, for the reserved codes 4 to 9. -/
theorem test_reserved_idle_low :
    afterCommands p2Done [4, 5, 6, 7, 8, 9] = List.replicate 6 (some (0x0044, 0xD)) := by decide

/-- V-C13 and V-C14, for the reserved codes 10 to 15. -/
theorem test_reserved_idle_high :
    afterCommands p2Done [10, 11, 12, 13, 14, 15] = List.replicate 6 (some (0x0044, 0xD)) := by decide

/-- V-C6, for the reserved codes 4 to 9. -/
theorem test_reserved_busy_low :
    afterCommands (t8 2 (lanes 0 0 1 0)) [4, 5, 6, 7, 8, 9] = List.replicate 6 (some (0x0201, 0)) := by decide

/-- V-C6, for the reserved codes 10 to 15. -/
theorem test_reserved_busy_high :
    afterCommands (t8 2 (lanes 0 0 1 0)) [10, 11, 12, 13, 14, 15] = List.replicate 6 (some (0x0201, 0)) := by decide

/-! ### Register accesses and other events (95_test_vectors.md section 8) -/

/-- V-C3, V-C19, V-C20, V-C21. -/
theorem test_register_writes :
    after (step (State.wr (t8 2 (lanes 0 0 1 0)) 0x18 64 0)) (fun t => t.len) = some 25 ∧
    statusAfter (State.wr p2 0x04 32 0x1) = some 0 ∧
    after (step (State.wr p2 0x10 64 0x123456789)) (fun t => t.readSlot .seed) = some 0x23456789 ∧
    after (step (State.wr p2 0x28 64 5)) (fun t => t.result) = some 0 := by decide

/-- Program P5's accesses 2 and 8 to 9: halves of SRC and RESULT. -/
theorem test_half_accesses :
    after (step (State.wr { p2 with src := 0x0000000100004000 } 0x24 32 0)) (fun t => t.src) = some 0x4000 ∧
    after (step (State.rd { p2 with result := 0x96E01F9EDAB180E5 } 0x28 32)) (fun t => t.reply) =
      some (some 0xDAB180E5) ∧
    after (step (State.rd { p2 with result := 0x96E01F9EDAB180E5 } 0x2C 32)) (fun t => t.reply) =
      some (some 0x96E01F9E) := by decide

/-- V-C22. -/
theorem test_refused_access : refusalOf (State.rd p2 0x08 16) = some .registerAccess := by decide

/-- V-C17. -/
theorem test_reset :
    after (step (State.given { t8 2 (lanes 0 0 1 0) with seed := 3, result := 9, resultH2 := 9 } .reset))
      (fun t => (t.status.toWord, t.seed, t.len, t.src, t.result, t.resultH2)) = some (0, 0, 0, 0, 0, 0) := by decide

/-- Rule R77: a store into the region of a run is remembered; one outside is not. -/
theorem test_store_breach :
    after (step (State.given (t8 2 (lanes 0 0 1 0)) (.store 0x1018 0xAA))) (fun t => (t.touched, t.mem.read 0x1018)) =
      some ([0x1018], 0xAA) ∧
    after (step (State.given (t8 2 (lanes 0 0 1 0)) (.store 0x1019 0xAA))) (fun t => (t.touched, t.mem.read 0x1019)) =
      some ([], 0xAA) := by decide

/-- Rule R77: a store to the last byte a run has read draws anew what it read, 16 bytes, and one to the first byte it has not
read draws nothing. -/
theorem test_store_redraw :
    after (step (State.given (t8 3 (lanes 5 6 1 1)) (.store 0x100F 0xAA))) (fun t => (t.touched, t.draws, t.status, t.w.blk)) =
      some ([0x100F], 16, running 3, 1) ∧
    after (step (State.given (t8 3 (lanes 5 6 1 1)) (.store 0x1010 0xAA))) (fun t => (t.touched, t.draws, t.w)) =
      some ([0x1010], 0, lanes 5 6 1 1) := by decide

/-- The canonical form: writing what an unlisted address reads as removes the entry. -/
theorem test_memory_canonical :
    Memory.write [(1, 5), (3, 6)] 2 7 = [(1, 5), (2, 7), (3, 6)] ∧ Memory.write [(1, 5), (3, 6)] 3 0 = [(1, 5)] := by decide

/-- Rule R100: program P2's seven lines. -/
theorem test_hash128_expansion :
    (Pseudo.hash128 0x2000 4 0 0 0 1 2).expand =
      [.wr64 .src 0x2000, .wr64 .len 4, .wr64 .seed 0, .wr64 .ctrl 1, .label 0, .rd64 .status 0, .bnz 0 1 0,
        .rd64 .status 1, .rd64 .result 2] ∧
    resultValid 0x2 = true ∧ resultValid 0x4 = false := by decide

/-! ### Witnesses: states that meet the hypotheses of the obligations -/

/-- A state of trace T8 keeps the invariant (for StepKeepsInvariant, RequestsCoverRegion, EveryRunEnds and others). -/
theorem witness_inv_block : (t8 2 (lanes 0 0 1 0)).Inv :=
  ⟨⟨by decide, by decide, by decide, by decide, by decide⟩, by decide, by decide, by decide, by decide, by decide, by decide,
    by decide, by decide⟩

theorem witness_inv_init : (t8 1 (lanes 9 9 9 9)).Inv :=
  ⟨⟨by decide, by decide, by decide, by decide, by decide⟩, by decide, by decide, by decide, by decide, by decide, by decide,
    by decide, by decide⟩

theorem witness_inv_tail : (t8 3 (lanes 0x178124FD7F939672 0x561DE10AFD457487 1 1)).Inv :=
  ⟨⟨by decide, by decide, by decide, by decide, by decide⟩, by decide, by decide, by decide, by decide, by decide, by decide,
    by decide, by decide⟩

theorem witness_inv_combine : (t8 7 (lanes 0x121888F2FD42E21A 0x87161F6E2F46EB46 1 1)).Inv :=
  ⟨⟨by decide, by decide, by decide, by decide, by decide⟩, by decide, by decide, by decide, by decide, by decide, by decide,
    by decide, by decide⟩

theorem witness_inv_idle : (State.wr p2 0x00 64 1).Inv :=
  ⟨⟨by decide, by decide, by decide, by decide, by decide⟩, by decide, by decide, by decide, by decide, by decide, by decide,
    by decide, by decide⟩

theorem witness_CommandBitsAlone :
    (0x1 : Word).extractLsb' 0 4 = (0xFFFFFFFFFFFFFFF1 : Word).extractLsb' 0 4 := by decide

theorem witness_StepRunsDecodedInstruction_engine :
    (t8 7 (lanes 0 0 1 1)).EngineMoves ∧ (t8 7 (lanes 0 0 1 1)).status.busy = true ∧
    decode .phase [(t8 7 (lanes 0 0 1 1)).status.phase.setWidth 8] = .ok .combine := ⟨.inl rfl, by decide, by decide⟩

theorem witness_StepRunsDecodedInstruction_idle : p2.EngineMoves ∧ p2.status.busy = false := ⟨.inl rfl, by decide⟩

theorem witness_StepRunsDecodedInstruction_command :
    (State.wr p2 0 64 1).inputs = [.access (.write (State.wr p2 0 64 1).cfg.regBase 64 1)] ∧
    decode .ctrl (bytesLE 8 (1 : Word).toNat) = .ok .hash ∧
    (State.wr p2 0 32 1).inputs = [.access (.write (State.wr p2 0 32 1).cfg.regBase 32 1)] ∧
    decode .ctrl (bytesLE 4 (1 : Word).toNat) = .ok .hash := by decide

/-- P2's machine with another region. -/
def p2Region (src len : Word) : State := { p2 with src := src, len := len }

/-- HashCommand: each clause, the second at its boundary. -/
theorem witness_HashCommand_ignored_and_rejected :
    (t8 2 (lanes 0 0 1 0)).status.busy = true ∧
    (p2Region 0xFFFFFFFFFFFFFFF1 0x10).status.busy = false ∧ 0 < (p2Region 0xFFFFFFFFFFFFFFF1 0x10).len.toNat ∧
    2 ^ (p2Region 0xFFFFFFFFFFFFFFF1 0x10).cfg.addrW <
      (p2Region 0xFFFFFFFFFFFFFFF1 0x10).src.toNat + (p2Region 0xFFFFFFFFFFFFFFF1 0x10).len.toNat := by decide

/-- HashCommand: the accepting clause, by a region that ends at the last byte and by an empty one. -/
theorem witness_HashCommand_accepted :
    (p2Region 0xFFFFFFFFFFFFFFF0 0x10).status.busy = false ∧
    (p2Region 0xFFFFFFFFFFFFFFF0 0x10).src.toNat + (p2Region 0xFFFFFFFFFFFFFFF0 0x10).len.toNat ≤
      2 ^ (p2Region 0xFFFFFFFFFFFFFFF0 0x10).cfg.addrW ∧
    (p2Region 0xFFFFFFFFFFFFFFF0 0x10).cfg.touchesDevice 0xFFFFFFFFFFFFFFF0 0x10 = false ∧
    (p2Region 0xFFFFFFFFFFFFFFFF 0).status.busy = false ∧ (p2Region 0xFFFFFFFFFFFFFFFF 0).len.toNat = 0 ∧
    (p2Region 0xFFFFFFFFFFFFFFFF 0).cfg.touchesDevice 0xFFFFFFFFFFFFFFFF 0 = false := by decide

/-- P2's machine with a device at its last source byte. -/
def p2Device : State := { p2 with cfg := { Config.standard with devices := [{ base := 0x2003, size := 1 }] } }

theorem witness_HashRefusesDeviceRegion :
    p2Device.status.busy = false ∧ p2Device.src.toNat + p2Device.len.toNat ≤ 2 ^ p2Device.cfg.addrW ∧
    ∃ r ∈ p2Device.cfg.devices, ∃ a, p2Device.src.toNat ≤ a ∧ a < p2Device.src.toNat + p2Device.len.toNat ∧ r.base ≤ a ∧
      a < r.base + r.size :=
  ⟨by decide, by decide, { base := 0x2003, size := 1 }, by decide, 0x2003, by decide⟩

/-- AbortCommand, ClearCommand, ReservedCommands, BusyWritesIgnored: a running and an idle state, the latter keeping rule R30. -/
theorem witness_busy_and_idle :
    (t8 2 (lanes 0 0 1 0)).status.busy = true ∧ p2.status.busy = false ∧ p2.status.Legal :=
  ⟨by decide, by decide, by decide, by decide, by decide, by decide, by decide⟩

/-- What BlockMicroOp asks of a state, for each answer of the port. -/
def blockReadable (s : State) (a : PortAnswer) : Bool :=
  decide (s.src.toNat + 16 * s.w.blk.toNat + 16 ≤ 2 ^ s.cfg.addrW) &&
    !s.cfg.touchesDevice (s.src.toNat + 16 * s.w.blk.toNat) 16 && s.nextAnswer == a

/-- What TailMicroOp asks of a state with tail bytes, for each answer of the port. -/
def tailReadable (s : State) (a : PortAnswer) : Bool :=
  decide (s.src.toNat + 16 * s.w.nb.toNat + s.len.toNat % 16 ≤ 2 ^ s.cfg.addrW) &&
    !s.cfg.touchesDevice (s.src.toNat + 16 * s.w.nb.toNat) (s.len.toNat % 16) && s.nextAnswer == a

/-- T8's machine in TAIL with another length and one pending answer of the port. -/
def t8Tail (len : Word) (a : PortAnswer) : State := { t8 3 (lanes 0 0 1 1) with len := len, portAnswers := [a] }

/-- BlockMicroOp, for each answer. -/
theorem witness_BlockMicroOp :
    blockReadable (t8 2 (lanes 0 0 1 0)) .ok = true ∧
    blockReadable { t8 2 (lanes 0 0 1 0) with portAnswers := [.err] } .err = true := by decide

/-- TailMicroOp, answer `ok`, at the remainders where its clauses meet: 0, 1, 8, 9 and 15. -/
theorem witness_TailMicroOp :
    (t8Tail 16 .ok).len.toNat % 16 = 0 ∧ tailReadable (t8Tail 17 .ok) .ok = true ∧ tailReadable (t8Tail 24 .ok) .ok = true ∧
    tailReadable (t8Tail 25 .ok) .ok = true ∧ tailReadable (t8Tail 31 .ok) .ok = true := by decide

/-- TailMicroOp, answer `err`, at the remainders 1 and 15. -/
theorem witness_TailMicroOp_error :
    0 < (t8Tail 17 .err).len.toNat % 16 ∧ tailReadable (t8Tail 17 .err) .err = true ∧
    0 < (t8Tail 31 .err).len.toNat % 16 ∧ tailReadable (t8Tail 31 .err) .err = true := by decide

/-- TailReadingsAgreeBelowNine at its boundary. -/
theorem witness_TailReadingsAgreeBelowNine : ((countingBytes 0 24).map Prod.snd).length % 16 ≤ 8 := by decide

/-- PortValueLittleEndian: the widest request, and the empty one. -/
theorem witness_PortValueLittleEndian :
    (∃ v t, memRead 0x1000 16 (t8 2 (lanes 0 0 1 0)) = .next (.ok v, t)) ∧
    ∃ v t, memRead 0x1000 0 (t8 2 (lanes 0 0 1 0)) = .next (.ok v, t) := ⟨⟨_, _, rfl⟩, ⟨_, _, rfl⟩⟩

/-- TailBytePlacement and TailFoldsUnconditional, at the remainders 0, 8 and 9. -/
theorem witness_TailBytePlacement :
    (t8Tail 16 .ok).status.busy = true ∧
    after (exec .tail (t8Tail 16 .ok)) (fun t => t.status.busy) = some true ∧
    after (exec .tail (t8Tail 24 .ok)) (fun t => t.status.busy) = some true ∧
    after (exec .tail (t8Tail 25 .ok)) (fun t => t.status.busy) = some true := by decide

/-- OtherAccessesRefused, with REG_BASE = 0: each ground. -/
theorem witness_OtherAccessesRefused :
    ((Access.read 0x08 16).width ≠ 64 ∧ (Access.read 0x08 16).width ≠ 32) ∧
    ((Access.read 0x04 64).addr - 0) % ((Access.read 0x04 64).width / 8) ≠ 0 ∧
    ((Access.write 0x06 32 0).addr - 0) / 8 ≠
      ((Access.write 0x06 32 0).addr - 0 + (Access.write 0x06 32 0).width / 8 - 1) / 8 ∧
    0 + 0x40 ≤ (Access.read 0x40 64).addr := by decide

/-- RegisterWrites, ClearCommand, AbortCommand and the rest: see witness_busy_and_idle for both values of BUSY. A reserved PHASE
for ReservedPhasesRefused, at both ends of its range, and the last code below it. -/
theorem witness_ReservedPhasesRefused :
    (t8 8 (lanes 0 0 1 1)).EngineMoves ∧ (t8 8 (lanes 0 0 1 1)).status.busy = true ∧
    8 ≤ (t8 8 (lanes 0 0 1 1)).status.phase.toNat ∧ 8 ≤ (t8 15 (lanes 0 0 1 1)).status.phase.toNat ∧
    (t8 7 (lanes 0 0 1 1)).status.phase.toNat < 8 ∧ (statusAfter (t8 7 (lanes 0 0 1 1))).isSome = true :=
  ⟨.inl rfl, by decide, by decide, by decide, by decide, by decide⟩

/-- OnlyStoresWriteMemory, ResultsOnlyFromCombine, OperandsConstantDuringRun, PhaseSuccessors (phases 2 and 7). -/
theorem witness_engine_steps :
    (t8 2 (lanes 0 0 1 0)).EngineMoves ∧ (∃ t, step (t8 2 (lanes 0 0 1 0)) = .next t ∧ t.status.busy = true) ∧
    (∃ t, step (t8 7 (lanes 0 0 1 1)) = .next t) ∧
    (∀ a v rest, (t8 2 (lanes 0 0 1 0)).inputs ≠ .store a v :: rest) ∧ (t8 2 (lanes 0 0 1 0)).NextTurnNoReset ∧
    ¬ ((t8 2 (lanes 0 0 1 0)).EngineMoves ∧ (t8 2 (lanes 0 0 1 0)).status.busy = true ∧
      (t8 2 (lanes 0 0 1 0)).status.phase = 7) :=
  ⟨.inl rfl, ⟨_, rfl, rfl⟩, ⟨_, rfl⟩, (fun _ _ _ h => nomatch h), (fun _ h => nomatch h), fun h => absurd h.2.2 (by decide)⟩

/-- PhaseSuccessors: a failed read. -/
theorem witness_PhaseSuccessors_failed :
    ∃ t, step { t8 3 (lanes 0 0 1 1) with portAnswers := [.err] } = .next t ∧ t.status.busy = false := ⟨_, rfl, rfl⟩

/-- BusErrorOnlyFromFailedRead: a block whose read fails. -/
theorem witness_BusErrorOnlyFromFailedRead :
    after (step { t8 2 (lanes 0 0 1 0) with portAnswers := [.err] }) (fun t => t.status.errcode) = some .busError ∧
    (running 2).errcode ≠ .busError := by decide

/-- With `PORT_CAN_FAIL = false` a pending `Err` is no answer (rule R232). -/
theorem test_port_cannot_fail :
    statusAfter { t8 2 (lanes 0 0 1 0) with cfg := { Config.standard with portCanFail := false }, portAnswers := [.err] } =
      some 0x0301 := by decide

/-- FourErrorCauses: each cause entered from a state without an error. -/
theorem witness_FourErrorCauses :
    statusAfter (State.wr (p2Region 0xFFFFFFFFFFFFFFF8 0x10) 0x00 64 0x1) = some 0x14 ∧
    statusAfter (t8Tail 17 .err) = some 0x24 ∧ statusAfter (State.wr (t8 2 (lanes 0 0 1 0)) 0x00 64 0x2) = some 0x34 ∧
    statusAfter (State.wr p2Done 0x00 64 0x4) = some 0x44 ∧ (running 2).err = false ∧ p2.status.err = false ∧
    completedStatus.err = false := by decide

/-- T8's machine before its block, with the region's last byte written during the run. -/
def breached : State := { t8 2 (lanes 0 0 1 0) with touched := [0x1018] }

/-- StoreReplacesOneByte, BreachedByteIsFree and AllowedTurnsHaveASuccessor: a store to the region's last byte. -/
theorem witness_store :
    let s := State.given (t8 2 (lanes 0 0 1 0)) (.store 0x1018 0xAA)
    s.mem.wf = true ∧ s.inputs = [.store 0x1018 0xAA] ∧ s.status.busy = true ∧ s.src.toNat ≤ 0x1018 ∧
      0x1018 < s.src.toNat + s.len.toNat ∧ s.cfg.touchesDevice 0x1018 1 = false ∧
      s.cfg.touchesDevice s.src.toNat s.len.toNat = false ∧ 0x1018 < s.cfg.sourceSize ∧ (statusAfter s).isSome = true := by
  decide

/-- BreachedByteIsFree: the last byte read and the first one not read, and a step of a breached run that goes on. -/
theorem witness_BreachedByteIsFree :
    let s := State.given (t8 3 (lanes 5 6 1 1)) (.store 0x100F 0xAA)
    let s' := State.given (t8 3 (lanes 5 6 1 1)) (.store 0x1010 0xAA)
    0x100F - s.src.toNat < s.bytesRead ∧ s'.bytesRead ≤ 0x1010 - s'.src.toNat ∧
      after (step breached) (fun t => t.status.busy) = some true ∧ breached.touched = [0x1018] := by decide

theorem witness_store_inv : (State.given (t8 2 (lanes 0 0 1 0)) (.store 0x1018 0xAA)).Inv :=
  ⟨witness_inv_block.1, witness_inv_block.2, witness_inv_block.3, witness_inv_block.4, witness_inv_block.5,
    witness_inv_block.6, witness_inv_block.7, witness_inv_block.8, witness_inv_block.9⟩

/-- AllowedTurnsHaveASuccessor: an access turn and an engine turn. -/
theorem witness_AllowedTurnsHaveASuccessor :
    (State.wr p2 0x00 64 1).NextTurnAllowed ∧ (t8 2 (lanes 0 0 1 0)).NextTurnAllowed ∧
    (State.given (t8 2 (lanes 0 0 1 0)) (.store 0x1018 0xAA)).NextTurnAllowed :=
  ⟨show Access.wf 0 (.write 0 64 1) = true by decide, trivial, by decide, by decide⟩

/-- BusyWritesIgnored: the last register half, and CTRL with a command other than ABORT. -/
theorem witness_BusyWritesIgnored :
    (Access.write 0x3C 32 7).wf 0 = true ∧ (Access.write 0x00 64 1).wf 0 = true ∧
    (1 : Word).extractLsb' 0 4 ≠ 2 := by decide

theorem witness_ResetZeroesWindow : (State.given p2 .reset).inputs = [.reset] := rfl

/-- StepKeepsDigestLanes: a run past INIT whose lanes match, before its block. -/
theorem witness_StepKeepsDigestLanes :
    (t8 2 (lanes 0 0 1 0)).LanesMatch ∧ ∃ t, step (t8 2 (lanes 0 0 1 0)) = .next t :=
  ⟨fun _ _ _ => by decide, ⟨_, rfl⟩⟩

/-- CombineDeliversDigest and DoneOnlyFromCombine: the last micro-op of trace T8. -/
theorem witness_CombineDeliversDigest :
    let s := t8 7 (lanes 0x121888F2FD42E21A 0x87161F6E2F46EB46 1 1)
    s.LanesMatch ∧ s.EngineMoves ∧ s.status.busy = true ∧ s.status.phase = 7 ∧ s.touched = [] ∧ s.status.done = false :=
  ⟨fun _ _ _ => by decide, .inl rfl, by decide, by decide, by decide, by decide⟩

/-- RunComputesDigest: program P2's HASH. -/
theorem witness_RunComputesDigest :
    let s := State.wr p2 0x00 64 1
    s.status.busy = false ∧ s.inputs = [.access (.write s.cfg.regBase 64 1)] ∧ s.PortStaysOk ∧
      s.src.toNat + s.len.toNat ≤ 2 ^ s.cfg.addrW ∧ s.cfg.touchesDevice s.src.toNat s.len.toNat = false :=
  ⟨by decide, rfl, .inr (fun _ h => by cases h), by decide, by decide⟩

/-- StepKeepsLanesOnAChoice: a run with a byte written during it, before its block. -/
theorem witness_StepKeepsLanesOnAChoice :
    breached.LanesFitAChoice ∧ breached.Inv ∧ ∃ t, step breached = .next t :=
  ⟨fun _ _ => ⟨breached.regionBytes, breached.isChoice_regionBytes, by decide⟩,
    ⟨witness_inv_block.1, witness_inv_block.2, witness_inv_block.3, by decide, witness_inv_block.5, witness_inv_block.6,
      witness_inv_block.7, witness_inv_block.8, witness_inv_block.9⟩, ⟨_, rfl⟩⟩

/-- StepKeepsLanesOnAChoice: the last micro-op of trace T8, with a byte written after the run has read it. -/
theorem witness_StepKeepsLanesOnAChoice_combine :
    let s := { t8 7 (lanes 0x121888F2FD42E21A 0x87161F6E2F46EB46 1 1) with touched := [0x1018] }
    s.LanesFitAChoice ∧ s.EngineMoves ∧ s.status.busy = true ∧ s.status.phase = 7 :=
  ⟨fun _ _ => ⟨_, State.isChoice_regionBytes _, by decide⟩, .inl rfl, by decide, by decide⟩

/-- P2's machine after a reserved command. -/
def p2Error : State := { p2 with status := p2.status.error .illegalCmd }

/-- ErrorLeftOnlyByClearHashReset: each of the three ways. -/
theorem witness_ErrorLeftOnlyByClearHashReset :
    p2Error.status.Legal ∧ p2Error.status.err = true ∧
    statusAfter (State.wr p2Error 0x00 64 0x3) = some 0 ∧ statusAfter (State.wr p2Error 0x00 32 0x1) = some 0x101 ∧
    statusAfter (State.given p2Error .reset) = some 0 :=
  ⟨⟨by decide, by decide, by decide, by decide, by decide⟩, by decide, by decide, by decide, by decide⟩

theorem witness_EveryRunEnds : (t8 1 (lanes 9 9 9 9)).status.busy = true ∧ (t8 1 (lanes 9 9 9 9)).inputs = [] := by decide

/-- WorkingRegistersUnobservable: two states that differ in every working register. -/
theorem witness_WorkingRegistersUnobservable :
    SameObservably p2 { p2 with w := lanes 1 2 3 4 } ∧ p2.status.busy = false ∧ (running 1).phase = 1 :=
  ⟨⟨rfl, fun h => by cases h⟩, rfl, rfl⟩

theorem witness_PseudoInstructionsExpand :
    (Pseudo.hash, Instr.hash) ∈ [(Pseudo.nop, Instr.nop), (.hash, .hash), (.abort, .abort), (.clear, .clear)] := by decide

/-- UnitsShift and UnitsRotate at their boundaries. -/
theorem witness_units : (64 : Nat) ≤ 64 ∧ (0 : Nat) < 64 ∧ (63 : Nat) < 64 := by decide

end Sys2Proof.Tests
end

section
/-! The signed reading of a 64-bit pattern (rules R7, R214): each branch of `s64` by the unsigned value, and its agreement with
`BitVec.toInt`. -/

namespace Sys2Proof.Machine

/-- Bit 63 is the sign: it is set exactly in the upper half of the 64-bit values. -/
theorem getLsbD_sign_iff (v : Word) : v.getLsbD 63 = true ↔ 2 ^ 63 ≤ v.toNat := by
  rw [← BitVec.msb_eq_getLsbD_last, BitVec.msb_eq_decide, decide_eq_true_iff]

theorem s64_of_lt {v : Word} (h : v.toNat < 2 ^ 63) : s64 v = v.toNat :=
  if_neg (mt (getLsbD_sign_iff v).1 h.not_ge)

theorem s64_of_ge {v : Word} (h : 2 ^ 63 ≤ v.toNat) : s64 v = v.toNat - 2 ^ 64 :=
  if_pos ((getLsbD_sign_iff v).2 h)

/-- The branch of `s64` on bit 63 is the library's branch on the most significant bit. -/
theorem s64_eq_toInt (v : Word) : s64 v = v.toInt := by
  rw [BitVec.toInt_eq_msb_cond, BitVec.msb_eq_getLsbD_last]
  rfl

/-- Settles O27: `s64` is the library's two's-complement reading, and bit 63 decides between the halves. -/
theorem signedReading : Obligations.SignedReading := by
  intro v
  refine ⟨s64_eq_toInt v, ?_⟩
  split
  case isTrue h => exact s64_of_lt h
  case isFalse h => exact s64_of_ge (Nat.le_of_not_lt h)

end Sys2Proof.Machine
end

section
/-! What one step can do, in the terms the statements about the state use: the rows of the micro-ops, everything a command and an
agent's store can do, and what a store leaves as it was. -/

namespace Sys2Proof.Machine

/-- The engine's turn runs IDLE outside a run, and the micro-op PHASE names inside one (rules R31, R170). -/
theorem State.engineCode_cases {s : State} {i : Instr} (hf : i.format = .phase) (hc : i.code = s.engineCode) :
    (s.status.busy = false ∧ i = .idle) ∨ (s.status.busy = true ∧ s.status.phase = i.code) := by
  unfold State.engineCode at hc
  split at hc
  case isTrue hb => exact .inr ⟨hb, hc.symm⟩
  case isFalse hb => exact .inl ⟨eq_false_of_ne_true hb, Instr.eq_of_code (j := .idle) hf hc⟩

/-- Everything a command that answers can do (rules R110 to R115). -/
theorem exec_command_cases {i : Instr} {s t : State} (hf : i.format = .ctrl) (h : exec i s = .next t) :
    t = s ∨
    (s.status.busy = true ∧ t = s.stopRun .aborted) ∨
    (s.status.busy = false ∧ ∃ e, e ≠ ErrCode.none ∧ t = s.reject e) ∨
    (s.status.busy = false ∧ t = s.clearError) ∨
    (s.status.busy = false ∧ s.regionInvalid = false ∧ s.cfg.touchesDevice s.src.toNat s.len.toNat = false ∧
      t = s.startRun) := by
  cases i with
  | nop => cases h; exact .inl rfl
  | hash =>
    rcases execHash_cases h with ⟨-, rfl⟩ | ⟨hb, -, rfl⟩ | ⟨hb, hr, hd, rfl⟩
    · exact .inl rfl
    · exact .inr (.inr (.inl ⟨hb, .invalidInput, nofun, rfl⟩))
    · exact .inr (.inr (.inr (.inr ⟨hb, hr, hd, rfl⟩)))
  | abort =>
    rcases execAbort_cases h with ⟨hb, rfl⟩ | ⟨-, rfl⟩
    · exact .inr (.inl ⟨hb, rfl⟩)
    · exact .inl rfl
  | clear =>
    rcases execClear_cases h with ⟨-, rfl⟩ | ⟨hb, rfl⟩
    · exact .inl rfl
    · exact .inr (.inr (.inr (.inl ⟨hb, rfl⟩)))
  | reserved4 | reserved5 | reserved6 | reserved7 | reserved8 | reserved9 | reservedA | reservedB | reservedC
  | reservedD | reservedE | reservedF =>
    rcases reservedCommand_cases h with ⟨-, rfl⟩ | ⟨hb, rfl⟩
    · exact .inl rfl
    · exact .inr (.inr (.inl ⟨hb, .illegalCmd, nofun, rfl⟩))
  | idle | init | block | tail | lfold | xlane | fmix | combine | phaseReserved8 | phaseReserved9 | phaseReservedA
  | phaseReservedB | phaseReservedC | phaseReservedD | phaseReservedE | phaseReservedF => cases hf

/-- A block round goes to TAIL after the last block, else to BLOCK again (rule R173). -/
theorem State.blockRound_eq_goTo (s : State) (v : BitVec 128) :
    s.blockRound v = s.goTo (s.blockRound v).w (if s.w.blk + 1 = s.w.nb then 3 else 2) := rfl

/-- A tail fold goes to LFOLD (rule R192). -/
theorem State.tailFold_eq_goTo (s : State) (r : Nat) (v : BitVec 128) :
    s.tailFold r v = s.goTo (s.tailFold r v).w 4 := rfl

/-- No store writes the parameters, STATUS or a register of the window (rules R66, R77). -/
theorem storeByte_frame {a : Nat} {v : Byte} {s t : State} (h : storeByte a v s = .next t) :
    t.cfg = s.cfg ∧ t.status = s.status ∧ t.seed = s.seed ∧ t.len = s.len ∧ t.src = s.src ∧ t.result = s.result ∧
    t.resultH2 = s.resultH2 := by
  obtain ⟨-, -, ⟨-, rfl⟩ | ⟨-, rfl⟩⟩ := storeByte_cases h
  · exact ⟨rfl, rfl, rfl, rfl, rfl, rfl, rfl⟩
  · obtain ⟨hcfg, hstatus, hseed, hlen, hsrc, hresult, hresultH2, -⟩ :=
      State.breach_frame { s with mem := s.mem.write a v } a
    exact ⟨hcfg, hstatus, hseed, hlen, hsrc, hresult, hresultH2⟩

end Sys2Proof.Machine
end

section
/-! The machine's invariant (rules R30, R42, R66, R70, R174): what each change of the state needs to keep it, and that every step
keeps it. -/

namespace Sys2Proof.Machine

/-! ### The STATUS invariants (rule R30) -/

theorem Status.accepted_legal (st : Status) : st.accepted.Legal :=
  ⟨by simp, by simp, by simp, by simp, by simp⟩

theorem Status.error_legal (st : Status) {e : ErrCode} (he : e ≠ .none) : (st.error e).Legal :=
  ⟨by simp, by simp, by simp, by simp, fun _ => he⟩

theorem Status.reset_legal : Status.reset.Legal :=
  ⟨nofun, fun _ => rfl, nofun, fun _ => rfl, nofun⟩

theorem Status.Legal.cleared {st : Status} (h : st.Legal) : st.cleared.Legal :=
  ⟨fun hb => ⟨rfl, rfl, rfl, (h.running hb).2.2.2⟩, h.idle, nofun, fun _ => rfl, nofun⟩

/-- A running run's micro-op may name any phase of a run as its successor. -/
theorem Status.Legal.toPhase {st : Status} (h : st.Legal) (hb : st.busy = true) {p : BitVec 4}
    (hp : 1 ≤ p.toNat ∧ p.toNat ≤ 7) : (st.toPhase p).Legal := by
  obtain ⟨hdone, herr, hcode, -⟩ := h.running hb
  exact ⟨fun _ => ⟨hdone, herr, hcode, hp⟩, by simp [hb], h.done, h.noError, h.error⟩

/-- A running run has recorded no error, so its end may set DONE. -/
theorem Status.Legal.completed {st : Status} (h : st.Legal) (hb : st.busy = true) : st.completed.Legal :=
  ⟨nofun, fun _ => rfl, fun _ => (h.running hb).2.1, h.noError, h.error⟩

/-! ### The invariant -/

/-- The invariant speaks of the parameters, STATUS, LEN, SRC, the memory, the written addresses and the block counters alone. -/
theorem State.Inv.congr {s t : State} (h : s.Inv) (hcfg : t.cfg = s.cfg) (hstatus : t.status = s.status)
    (hlen : t.len = s.len) (hsrc : t.src = s.src) (hmem : t.mem = s.mem) (hnb : t.w.nb = s.w.nb)
    (hblk : t.w.blk = s.w.blk) (ht : t.touched.Pairwise (· < ·)) : t.Inv := by
  have hr : t.regionInvalid = s.regionInvalid := by unfold State.regionInvalid; rw [hcfg, hlen, hsrc]
  have hc : t.blockCount = s.blockCount := by unfold State.blockCount; rw [hlen]
  exact ⟨by rw [hstatus]; exact h.status, by rw [hmem]; exact h.memory, by rw [hmem, hcfg]; exact h.memoryInside, ht,
    by rw [hstatus, hr]; exact h.regionFits, by rw [hstatus, hcfg, hsrc, hlen]; exact h.regionOrdinary,
    by rw [hstatus, hnb, hc]; exact h.blockCount, by rw [hstatus, hblk, hnb]; exact h.blocksLeft,
    by rw [hstatus, hblk, hnb]; exact h.blocksDone⟩

/-- Outside a run the invariant asks nothing of LEN, SRC and the working registers. -/
theorem State.Inv.of_idle {s : State} (hb : s.status.busy = false) (hl : s.status.Legal) (hm : s.mem.wf = true)
    (hi : ∀ c ∈ s.mem, c.1 < s.cfg.sourceSize) (ht : s.touched.Pairwise (· < ·)) : s.Inv := by
  have idle : ¬ s.status.busy = true := by simp [hb]
  exact ⟨hl, hm, hi, ht, (absurd · idle), (absurd · idle), (absurd · idle), (absurd · idle), (absurd · idle)⟩

section
variable {s : State} (h : s.Inv)
include h

theorem State.Inv.turnTaken : s.turnTaken.Inv := h.congr rfl rfl rfl rfl rfl rfl rfl h.touchedRising

theorem State.Inv.setReply (v : Option Word) : ({ s with reply := v } : State).Inv :=
  h.congr rfl rfl rfl rfl rfl rfl rfl h.touchedRising

theorem State.Inv.afterRequest (a n : Nat) : (s.afterRequest a n).Inv :=
  h.congr rfl rfl rfl rfl rfl rfl rfl h.touchedRising

/-- While BUSY is 1 a slot write is ignored; else the registers it writes are outside the invariant (rule R39). -/
theorem State.Inv.writeSlot (r : Slot) (v : Word) : (s.writeSlot r v).Inv := by
  cases hb : s.status.busy with
  | true => rw [State.writeSlot_busy hb]; exact h
  | false =>
    obtain ⟨hcfg, hstatus, -, -, -, hmem, htouched, -⟩ := s.writeSlot_frame r v
    refine .of_idle ?_ ?_ ?_ ?_ ?_
    · rw [hstatus]; exact hb
    · rw [hstatus]; exact h.status
    · rw [hmem]; exact h.memory
    · rw [hmem, hcfg]; exact h.memoryInside
    · rw [htouched]; exact h.touchedRising

theorem State.Inv.hardwareReset : s.hardwareReset.Inv :=
  .of_idle rfl Status.reset_legal h.memory h.memoryInside .nil

theorem State.Inv.reject {e : ErrCode} (he : e ≠ .none) : (s.reject e).Inv :=
  .of_idle rfl (s.status.error_legal he) h.memory h.memoryInside h.touchedRising

theorem State.Inv.stopRun {e : ErrCode} (he : e ≠ .none) : (s.stopRun e).Inv :=
  .of_idle rfl (s.status.error_legal he) h.memory h.memoryInside h.touchedRising

theorem State.Inv.clearError (hb : s.status.busy = false) : s.clearError.Inv :=
  .of_idle hb h.status.cleared h.memory h.memoryInside h.touchedRising

theorem State.Inv.complete (hb : s.status.busy = true) (h1 h2 : Word) : (s.complete h1 h2).Inv :=
  .of_idle rfl (h.status.completed hb) h.memory h.memoryInside h.touchedRising

/-- HASH's checks are the invariant of the run's region, and INIT is still to count the blocks (rules R112, R231). -/
theorem State.Inv.startRun (hr : s.regionInvalid = false)
    (hd : s.cfg.touchesDevice s.src.toNat s.len.toNat = false) : s.startRun.Inv :=
  ⟨s.status.accepted_legal, h.memory, h.memoryInside, .nil, fun _ => hr, fun _ => hd,
    fun _ hp => absurd rfl hp, fun _ hp => absurd hp (by decide : (1 : BitVec 4) ≠ 2),
    fun _ hp => absurd hp (by decide : ¬ 3 ≤ (1 : BitVec 4).toNat)⟩

/-- A micro-op that goes on keeps the invariant when its working registers keep the block counters of the phase it names. -/
theorem State.Inv.goTo (hb : s.status.busy = true) {w : Working} {p : BitVec 4} (hp : 1 ≤ p.toNat ∧ p.toNat ≤ 7)
    (hnb : w.nb = s.blockCount) (hleft : p = 2 → w.blk.toNat < w.nb.toNat) (hdone : 3 ≤ p.toNat → w.blk = w.nb) :
    (s.goTo w p).Inv :=
  ⟨h.status.toPhase hb hp, h.memory, h.memoryInside, h.touchedRising, h.regionFits, h.regionOrdinary,
    fun _ _ => hnb, fun _ => hleft, fun _ => hdone⟩

/-- A store inside the source space keeps the memory's canonical form there (rule R66). -/
theorem State.Inv.writeByte {a : Nat} (v : Byte) (ha : a < s.cfg.sourceSize) :
    ({ s with mem := s.mem.write a v } : State).Inv :=
  ⟨h.status, Memory.write_wf a v h.memory, Memory.write_inside v h.memoryInside ha, h.touchedRising, h.regionFits,
    h.regionOrdinary, h.blockCount, h.blocksLeft, h.blocksDone⟩

theorem State.Inv.breach (a : Nat) : (s.breach a).Inv := by
  obtain ⟨hcfg, hstatus, -, hlen, hsrc, -, -, hmem, -, -, -, -, htouched, hnb, hblk⟩ := s.breach_frame a
  exact h.congr hcfg hstatus hlen hsrc hmem hnb hblk (by rw [htouched]; exact insertRising_rising h.touchedRising)

/-! ### The micro-ops of a run -/

/-- From TAIL on a micro-op that leaves the block counters may name any later phase (rule R31). -/
theorem State.Inv.goTo_later (hb : s.status.busy = true) (hp : 3 ≤ s.status.phase.toNat) {w : Working} {p : BitVec 4}
    (hp' : 3 ≤ p.toNat ∧ p.toNat ≤ 7) (hnb : w.nb = s.w.nb) (hblk : w.blk = s.w.blk) : (s.goTo w p).Inv :=
  h.goTo hb ⟨by omega, hp'.2⟩ (hnb.trans (h.blockCount hb (by rintro h1; simp [h1] at hp)))
    (by rintro rfl; simp at hp') (fun _ => by rw [hnb, hblk]; exact h.blocksDone hb hp)

/-- INIT counts the blocks, and goes to BLOCK only if there is one (rule R171). -/
theorem State.Inv.execInit (hb : s.status.busy = true) {t : State} (he : execInit s = .next t) : t.Inv := by
  cases he
  by_cases hn : 0 < s.blockCount.toNat
  · rw [if_pos hn]
    exact h.goTo hb (by decide) rfl (fun _ => hn) (absurd · (by decide))
  · rw [if_neg hn]
    exact h.goTo hb (by decide) rfl (absurd · (by decide))
      (fun _ => (BitVec.eq_of_toNat_eq (Nat.eq_zero_of_not_pos hn)).symm)

/-- A block round counts one block, and goes to TAIL exactly when it was the last (rules R173, R174). -/
theorem State.Inv.blockRound (hb : s.status.busy = true) (hp : s.status.phase = 2) (v : BitVec 128) :
    (s.blockRound v).Inv := by
  have hlt := h.blocksLeft hb hp
  have hnb : (s.blockRound v).w.nb = s.blockCount := by
    rw [State.blockRound_w_nb]; exact h.blockCount hb (by rw [hp]; decide)
  rw [State.blockRound_eq_goTo]
  by_cases hlast : s.w.blk + 1 = s.w.nb
  · rw [if_pos hlast]
    exact h.goTo hb (by decide) hnb (absurd · (by decide))
      (fun _ => by rw [State.blockRound_w_blk, State.blockRound_w_nb, hlast])
  · rw [if_neg hlast]
    exact h.goTo hb (by decide) hnb (fun _ => by rw [State.blockRound_w_blk, State.blockRound_w_nb]; bv_omega)
      (absurd · (by decide))

/-- A tail fold leaves the block counters (rule R192). -/
theorem State.Inv.tailFold (hb : s.status.busy = true) (hp : s.status.phase = 3) (r : Nat) (v : BitVec 128) :
    (s.tailFold r v).Inv := by
  rw [State.tailFold_eq_goTo]
  exact h.goTo_later hb (by rw [hp]; decide) (by decide) (State.tailFold_w_nb ..) (State.tailFold_w_blk ..)

/-- A micro-op after TAIL that changes the lanes alone keeps the block counters (rules R210 to R212). -/
theorem State.Inv.goTo_lanes (hb : s.status.busy = true) (hp : 3 ≤ s.status.phase.toNat) {p : BitVec 4}
    (hp' : 3 ≤ p.toNat ∧ p.toNat ≤ 7) (h1 h2 : Word) : (s.goTo (s.w.withLanes h1 h2) p).Inv :=
  h.goTo_later hb hp hp' (Working.withLanes_nb ..) (Working.withLanes_blk ..)

end

/-! ### Every step -/

theorem exec_command_inv {i : Instr} {s t : State} (hf : i.format = .ctrl) (hs : s.Inv) (h : exec i s = .next t) :
    t.Inv := by
  rcases exec_command_cases hf h with rfl | ⟨-, rfl⟩ | ⟨-, e, he, rfl⟩ | ⟨hb, rfl⟩ | ⟨-, hr, hd, rfl⟩
  · exact hs
  · exact hs.stopRun nofun
  · exact hs.reject he
  · exact hs.clearError hb
  · exact hs.startRun hr hd

theorem exec_microOp_inv {i : Instr} {s t : State} (hf : i.format = .phase) (hb : s.status.busy = true)
    (hp : s.status.phase = i.code) (hs : s.Inv) (h : exec i s = .next t) : t.Inv := by
  cases i with
  | idle => cases h; exact hs
  | init => exact hs.execInit hb h
  | block =>
    rcases execBlock_cases h with ⟨-, -, ⟨-, rfl⟩ | ⟨-, rfl⟩⟩
    · exact (hs.afterRequest _ _).blockRound hb hp _
    · exact (hs.afterRequest _ _).stopRun nofun
  | tail =>
    rcases execTail_cases h with ⟨-, rfl⟩ | ⟨-, -, -, ⟨-, rfl⟩ | ⟨-, rfl⟩⟩
    · exact hs.tailFold hb hp _ _
    · exact (hs.afterRequest _ _).tailFold hb hp _ _
    · exact (hs.afterRequest _ _).stopRun nofun
  | lfold | xlane | fmix => cases h; exact hs.goTo_lanes hb (by rw [hp]; decide) (by decide) _ _
  | combine => cases h; exact hs.complete hb _ _
  | phaseReserved8 | phaseReserved9 | phaseReservedA | phaseReservedB | phaseReservedC | phaseReservedD
  | phaseReservedE | phaseReservedF => cases h
  | nop | hash | abort | clear | reserved4 | reserved5 | reserved6 | reserved7 | reserved8 | reserved9 | reservedA
  | reservedB | reservedC | reservedD | reservedE | reservedF => cases hf

theorem storeByte_inv {a : Nat} {v : Byte} {s t : State} (hs : s.Inv) (h : storeByte a v s = .next t) : t.Inv := by
  obtain ⟨ha, -, ⟨-, rfl⟩ | ⟨-, rfl⟩⟩ := storeByte_cases h
  · exact hs.writeByte v ha
  · exact (hs.writeByte v ha).breach a

/-- Settles O48, by the agent that moves: the engine in the phase of its run, the host, an agent's store, or a reset. -/
theorem stepKeepsInvariant : Obligations.StepKeepsInvariant := by
  intro s t hs h
  have hs' := hs.turnTaken
  rcases step_cases h with ⟨-, i, hf, hc, he⟩ | ⟨-, -, -, r, part, -, -, rfl⟩ | ⟨-, -, -, i, -, -, hf, -, he⟩ |
    ⟨-, -, -, -, r, v, -, rfl⟩ | ⟨a, v, -, -, he⟩ | ⟨-, -, rfl⟩
  · rcases State.engineCode_cases (s := s) hf hc with ⟨-, rfl⟩ | ⟨hb, hp⟩
    · cases he; exact hs'
    · exact exec_microOp_inv (s := s.turnTaken) hf hb hp hs' he
  · exact hs'.setReply _
  · exact exec_command_inv hf hs' he
  · exact hs'.writeSlot r v
  · exact storeByte_inv hs' he
  · exact hs'.hardwareReset

end Sys2Proof.Machine
end

section
/-! What a step writes to the result registers, the operands and the parameters, where the sequencer goes (rules R25, R31, R35, R36,
R39). -/

namespace Sys2Proof.Machine

/-- The engine is to run COMBINE only in a running run's phase 7 (rules R31, R170). -/
theorem State.engineCode_combine {s : State} (hc : Instr.combine.code = s.engineCode) :
    s.status.busy = true ∧ s.status.phase = 7 := by
  rcases State.engineCode_cases (i := .combine) rfl hc with ⟨-, hi⟩ | ⟨hb, hp⟩
  · cases hi
  · exact ⟨hb, hp⟩

/-- Settles O39: a command is not COMBINE, the engine's micro-op is COMBINE in phase 7 alone, and no other turn but a reset writes a
result. -/
theorem resultsOnlyFromCombine : Obligations.ResultsOnlyFromCombine := by
  intro s t h hnr hnc
  rcases step_cases h with ⟨hm, i, -, hc, he⟩ | ⟨-, -, -, r, part, -, -, rfl⟩ | ⟨-, -, -, i, -, -, hf, -, he⟩ |
    ⟨-, -, -, -, r, v, -, rfl⟩ | ⟨a, v, -, -, he⟩ | ⟨rest, hr, -⟩
  · refine exec_result (s := s.turnTaken) ?_ he
    rintro rfl
    exact hnc ⟨hm, State.engineCode_combine hc⟩
  · exact ⟨rfl, rfl⟩
  · exact exec_result (s := s.turnTaken) (by rintro rfl; cases hf) he
  · obtain ⟨-, -, hresult, hresultH2, -⟩ := s.turnTaken.writeSlot_frame r v
    exact ⟨hresult, hresultH2⟩
  · obtain ⟨-, -, -, -, -, hresult, hresultH2⟩ := storeByte_frame he
    exact ⟨hresult, hresultH2⟩
  · exact absurd hr (hnr rest)

/-- Settles O40: no instruction and no store writes an operand, and a host write to one is ignored while BUSY is 1. -/
theorem operandsConstantDuringRun : Obligations.OperandsConstantDuringRun := by
  intro s t h
  rcases step_cases h with ⟨-, i, -, -, he⟩ | ⟨-, -, -, r, part, -, -, rfl⟩ | ⟨-, -, -, i, -, -, -, -, he⟩ |
    ⟨-, -, -, -, r, v, -, rfl⟩ | ⟨a, v, -, -, he⟩ | ⟨rest, hr, rfl⟩
  · obtain ⟨hcfg, hseed, hlen, hsrc, -⟩ := exec_frame he
    exact ⟨hcfg, fun _ _ => ⟨hseed, hlen, hsrc⟩⟩
  · exact ⟨rfl, fun _ _ => ⟨rfl, rfl, rfl⟩⟩
  · obtain ⟨hcfg, hseed, hlen, hsrc, -⟩ := exec_frame he
    exact ⟨hcfg, fun _ _ => ⟨hseed, hlen, hsrc⟩⟩
  · refine ⟨(s.turnTaken.writeSlot_frame r v).1, fun _ hb => ?_⟩
    rw [State.writeSlot_busy (s := s.turnTaken) hb]
    exact ⟨rfl, rfl, rfl⟩
  · obtain ⟨hcfg, -, hseed, hlen, hsrc, -⟩ := storeByte_frame he
    exact ⟨hcfg, fun _ _ => ⟨hseed, hlen, hsrc⟩⟩
  · exact ⟨rfl, fun hnr => absurd hr (hnr rest)⟩

/-- DONE rises in COMBINE alone of all instructions (rules R25, R213). -/
theorem exec_done {i : Instr} {s t : State} (h : exec i s = .next t) (hs : s.status.done = false)
    (ht : t.status.done = true) :
    i = .combine ∧ t.status.busy = false ∧ t.result = t.w.h1 ∧ t.resultH2 = t.w.h2 := by
  rcases exec_status h with hst | ⟨e, -, hst, -⟩ | ⟨-, -, hst⟩ | ⟨-, -, hst⟩ | ⟨p, -, -, hst⟩ | ⟨hi, hst, h1, h2⟩
  · simp [hst, hs] at ht
  · simp [hst] at ht
  · simp [hst] at ht
  · simp [hst] at ht
  · simp [hst, hs] at ht
  · exact ⟨hi, by rw [hst, Status.completed_busy], h1, h2⟩

/-- Settles O44: of the turns of a step only the engine's COMBINE can set DONE. -/
theorem doneOnlyFromCombine : Obligations.DoneOnlyFromCombine := by
  intro s t h ht hs
  have changed : t.status ≠ s.status := by
    intro hst
    rw [hst, hs] at ht
    cases ht
  rcases step_cases h with ⟨hm, i, -, hc, he⟩ | ⟨-, -, -, r, part, -, -, rfl⟩ | ⟨-, -, -, i, -, -, hf, -, he⟩ |
    ⟨-, -, -, -, r, v, -, rfl⟩ | ⟨a, v, -, -, he⟩ | ⟨-, -, rfl⟩
  · obtain ⟨rfl, hb, h1, h2⟩ := exec_done he hs ht
    obtain ⟨hb', hp⟩ := State.engineCode_combine hc
    exact ⟨hm, hb', hp, hb, h1, h2⟩
  · exact absurd rfl changed
  · obtain ⟨rfl, -⟩ := exec_done he hs ht
    cases hf
  · exact absurd (s.turnTaken.writeSlot_frame r v).2.1 changed
  · exact absurd (storeByte_frame he).2.1 changed
  · cases ht

/-! ### The successors of the micro-ops -/

theorem execInit_phase {s t : State} (h : execInit s = .next t) :
    t.status.phase = if 16 ≤ s.len.toNat then 2 else 3 := by
  cases h
  have : 0 < s.blockCount.toNat ↔ 16 ≤ s.len.toNat := by rw [State.blockCount_toNat]; omega
  simp only [State.goTo_status, Status.toPhase_phase, this]

/-- BLOCK of a running run goes on, or its read failed (rules R31, R236). -/
theorem execBlock_status {s t : State} (h : execBlock s = .next t) :
    t.status = s.status.toPhase (if s.w.blk + 1 = s.w.nb then 3 else 2) ∨ t.status = s.status.error .busError := by
  rcases execBlock_cases h with ⟨-, -, ⟨-, rfl⟩ | ⟨-, rfl⟩⟩
  · exact .inl (State.blockRound_status ..)
  · exact .inr rfl

/-- TAIL of a running run goes on, or its read failed (rules R31, R236). -/
theorem execTail_status {s t : State} (h : execTail s = .next t) :
    t.status = s.status.toPhase 4 ∨ t.status = s.status.error .busError := by
  rcases execTail_cases h with ⟨-, rfl⟩ | ⟨-, -, -, ⟨-, rfl⟩ | ⟨-, rfl⟩⟩
  · exact .inl rfl
  · exact .inl rfl
  · exact .inr rfl

theorem Status.error_busError_toWord (st : Status) : (st.error .busError).toWord = 0x24 := by
  unfold Status.error
  decide

/-- Settles O41: each micro-op's successor, and the failed reads of BLOCK and TAIL apart by BUSY. -/
theorem phaseSuccessors : Obligations.PhaseSuccessors := by
  intro s t hm hb h
  have run {i : Instr} (hf : i.format = .phase) (hp : s.status.phase = i.code) : exec i s.turnTaken = .next t := by
    rw [← step_microOp hm hf hb hp.symm]; exact h
  refine ⟨fun hp => execInit_phase (s := s.turnTaken) (run (i := .init) rfl hp), fun hp hbt => ?_, fun hp hbt => ?_,
    fun hp => ?_, fun hp => ?_, fun hp => ?_, fun hp => ?_, fun hp hbt => ?_⟩
  · rcases execBlock_status (run (i := .block) rfl hp) with hs | hs
    · rw [hs]; rfl
    · rw [hs] at hbt; cases hbt
  · rcases execTail_status (run (i := .tail) rfl hp) with hs | hs
    · rw [hs]; rfl
    · rw [hs] at hbt; cases hbt
  · cases run (i := .lfold) rfl hp; rfl
  · cases run (i := .xlane) rfl hp; rfl
  · cases run (i := .fmix) rfl hp; rfl
  · cases run (i := .combine) rfl hp; rfl
  · have failed : ∀ p, t.status ≠ s.turnTaken.status.toPhase p := by
      intro p hs
      rw [hs, Status.toPhase_busy, State.turnTaken_status, hb] at hbt
      cases hbt
    rcases hp with hp | hp
    · rw [(execBlock_status (run (i := .block) rfl hp)).resolve_left (failed _), Status.error_busError_toWord]
    · rw [(execTail_status (run (i := .tail) rfl hp)).resolve_left (failed _), Status.error_busError_toWord]

end Sys2Proof.Machine
end

section
/-! The working registers outside a run, or before INIT, are unobservable (rules R43, R45): each turn from two states that differ in
nothing else has the same outcome, up to such working registers again. -/

namespace Sys2Proof.Machine

/-- Working registers that no rule reads before a micro-op writes them are unobservable (rules R43, R45). -/
theorem sameObservably_of_unread (s : State) (w : Working) (h : s.status.busy = false ∨ s.status.phase = 1) :
    SameObservably s { s with w := w } := by
  refine ⟨rfl, fun hb hp => ?_⟩
  rcases h with h | h
  · rw [h] at hb; cases hb
  · exact absurd h hp

/-- A slot write neither reads nor writes a working register (rule R117). -/
theorem State.writeSlot_setWorking (s : State) (w : Working) (r : Slot) (v : Word) :
    ({ s with w := w } : State).writeSlot r v = { s.writeSlot r v with w := w } := by
  cases r with
  | seed | len | src => unfold State.writeSlot; dsimp only; split <;> rfl
  | ctrl | status | result | resultH2 | reserved => rfl

theorem SameObservably.refl (s : State) : SameObservably s s := ⟨rfl, fun _ _ => ⟨rfl, rfl, rfl, rfl⟩⟩

section
variable {s t : State} (h : SameObservably s t)
include h

/-! ### What both states have -/

theorem SameObservably.cfg : t.cfg = s.cfg := by rw [h.1]
theorem SameObservably.status : t.status = s.status := by rw [h.1]
theorem SameObservably.seed : t.seed = s.seed := by rw [h.1]
theorem SameObservably.len : t.len = s.len := by rw [h.1]
theorem SameObservably.src : t.src = s.src := by rw [h.1]
theorem SameObservably.inputs : t.inputs = s.inputs := by rw [h.1]
theorem SameObservably.regionInvalid : t.regionInvalid = s.regionInvalid := by rw [h.1]; rfl
theorem SameObservably.inRegion (a : Nat) : t.inRegion a = s.inRegion a := by rw [h.1]; rfl
theorem SameObservably.nextAnswer : t.nextAnswer = s.nextAnswer := by rw [h.1]; rfl
theorem SameObservably.portBytes (a n : Nat) : t.portBytes a n = s.portBytes a n := by rw [h.1]; rfl
theorem SameObservably.remainder : t.remainder = s.remainder := by rw [h.1]; rfl
theorem SameObservably.seedOperand : t.seedOperand = s.seedOperand := by rw [h.1]; rfl
theorem SameObservably.blockCount : t.blockCount = s.blockCount := by rw [h.1]; rfl
theorem SameObservably.engineCode : t.engineCode = s.engineCode := by rw [h.1]; rfl

/-- No slot of the window shows a working register (rules R23 to R37, R45). -/
theorem SameObservably.readSlot (r : Slot) : t.readSlot r = s.readSlot r := by rw [h.1]; cases r <;> rfl

/-- What a run has read is counted by block counters both states have (rule R70). -/
theorem SameObservably.bytesRead (hb : s.status.busy = true) : t.bytesRead = s.bytesRead := by
  unfold State.bytesRead
  rw [h.status, h.len]
  by_cases hp : s.status.phase = 1
  · simp [hp]
  · obtain ⟨-, -, hnb, hblk⟩ := h.2 hb hp
    rw [hnb, hblk]

/-! ### What keeps them the same -/

theorem SameObservably.turnTaken : SameObservably s.turnTaken t.turnTaken := ⟨by rw [h.1]; rfl, h.2⟩

theorem SameObservably.setReply (v : Option Word) :
    SameObservably { s with reply := v } { t with reply := v } := ⟨by rw [h.1], h.2⟩

theorem SameObservably.writeByte (a : Nat) (v : Byte) :
    SameObservably { s with mem := s.mem.write a v } { t with mem := t.mem.write a v } := ⟨by rw [h.1], h.2⟩

theorem SameObservably.touch (a : Nat) : SameObservably { s with touched := insertRising a s.touched }
    { t with touched := insertRising a t.touched } := ⟨by rw [h.1], h.2⟩

theorem SameObservably.afterRequest (a n : Nat) : SameObservably (s.afterRequest a n) (t.afterRequest a n) :=
  ⟨by rw [h.1]; rfl, h.2⟩

theorem SameObservably.writeSlot (r : Slot) (v : Word) : SameObservably (s.writeSlot r v) (t.writeSlot r v) := by
  obtain ⟨-, hs, -, -, hsw, -⟩ := s.writeSlot_frame r v
  obtain ⟨-, -, -, -, htw, -⟩ := t.writeSlot_frame r v
  refine ⟨?_, ?_⟩
  · rw [h.1, State.writeSlot_setWorking]
  · rw [hs, hsw, htw]; exact h.2

theorem SameObservably.startRun : SameObservably s.startRun t.startRun := by
  rw [h.1]; exact sameObservably_of_unread s.startRun t.w (.inr rfl)

theorem SameObservably.reject (e : ErrCode) : SameObservably (s.reject e) (t.reject e) := by
  rw [h.1]; exact sameObservably_of_unread (s.reject e) t.w (.inl rfl)

/-- A stopped run leaves the same free working registers (rule R236). -/
theorem SameObservably.stopRun (e : ErrCode) : SameObservably (s.stopRun e) (t.stopRun e) := by
  rw [h.1]; exact .refl _

theorem SameObservably.hardwareReset : SameObservably s.hardwareReset t.hardwareReset := by
  rw [h.1]; exact .refl _

theorem SameObservably.clearError (hb : s.status.busy = false) : SameObservably s.clearError t.clearError := by
  rw [h.1]; exact sameObservably_of_unread s.clearError t.w (.inl hb)

theorem SameObservably.complete (h1 h2 : Word) : SameObservably (s.complete h1 h2) (t.complete h1 h2) := by
  rw [h.1]; exact sameObservably_of_unread (s.complete h1 h2) (t.w.withLanes h1 h2) (.inl rfl)

/-- A micro-op that goes on may leave different keys. -/
theorem SameObservably.goTo {w w' : Working} (p : BitVec 4)
    (hw : w.h1 = w'.h1 ∧ w.h2 = w'.h2 ∧ w.nb = w'.nb ∧ w.blk = w'.blk) : SameObservably (s.goTo w p) (t.goTo w' p) :=
  ⟨by rw [h.1]; rfl, fun _ _ => hw⟩

/-- A redraw computes the lanes from what both states have (rule R77). -/
theorem SameObservably.redraw (hb : s.status.busy = true) : SameObservably s.redraw t.redraw := by
  have hn := h.bytesRead hb
  refine ⟨?_, fun _ hp => ?_⟩
  · unfold State.redraw State.replay
    rw [hn, h.1]
  · obtain ⟨-, -, hnb, hblk⟩ := h.2 hb hp
    have lanes (bytes : List Byte) : t.lanesOn bytes = s.lanesOn bytes :=
      State.lanesOn_congr h.seed hblk.symm (congrArg Status.phase h.status) bytes
    refine ⟨?_, ?_, ?_, ?_⟩
    · rw [State.redraw_w_h1, State.redraw_w_h1, h.src, hn, h.portBytes, lanes]
    · rw [State.redraw_w_h2, State.redraw_w_h2, h.src, hn, h.portBytes, lanes]
    · rw [State.redraw_w_nb, State.redraw_w_nb, hnb]
    · rw [State.redraw_w_blk, State.redraw_w_blk, hblk]

theorem SameObservably.breach (hb : s.status.busy = true) (a : Nat) : SameObservably (s.breach a) (t.breach a) := by
  by_cases hr : a - s.src.toNat < s.bytesRead
  · have hr' : a - t.src.toNat < t.bytesRead := by rw [h.src, h.bytesRead hb]; exact hr
    simp only [State.breach, if_pos hr, if_pos hr']
    exact (h.touch a).redraw hb
  · have hr' : ¬ a - t.src.toNat < t.bytesRead := by rw [h.src, h.bytesRead hb]; exact hr
    simp only [State.breach, if_neg hr, if_neg hr']
    exact h.touch a

/-! ### The commands and the micro-ops -/

theorem SameObservably.execHash : SameOutcome (execHash s) (execHash t) := by
  unfold Machine.execHash
  rw [h.status, h.regionInvalid, h.cfg, h.src, h.len]
  split_ifs
  · exact h
  · exact h.reject _
  · exact rfl
  · exact h.startRun

theorem SameObservably.execAbort : SameOutcome (execAbort s) (execAbort t) := by
  unfold Machine.execAbort
  rw [h.status]
  split
  · exact h.stopRun _
  · exact h

theorem SameObservably.execClear : SameOutcome (execClear s) (execClear t) := by
  unfold Machine.execClear
  rw [h.status]
  split
  case isTrue => exact h
  case isFalse hb => exact h.clearError (eq_false_of_ne_true hb)

theorem SameObservably.reservedCommand : SameOutcome (reservedCommand s) (reservedCommand t) := by
  unfold Machine.reservedCommand
  rw [h.status]
  split
  · exact h
  · exact h.reject _

theorem SameObservably.exec_command {i : Instr} (hf : i.format = .ctrl) : SameOutcome (exec i s) (exec i t) := by
  cases i with
  | nop => exact h
  | hash => exact h.execHash
  | abort => exact h.execAbort
  | clear => exact h.execClear
  | reserved4 | reserved5 | reserved6 | reserved7 | reserved8 | reserved9 | reservedA | reservedB | reservedC
  | reservedD | reservedE | reservedF => exact h.reservedCommand
  | idle | init | block | tail | lfold | xlane | fmix | combine | phaseReserved8 | phaseReserved9 | phaseReservedA
  | phaseReservedB | phaseReservedC | phaseReservedD | phaseReservedE | phaseReservedF => cases hf

/-- INIT writes every working register that a later micro-op reads before it writes it (rules R45, R171). -/
theorem SameObservably.execInit : SameOutcome (execInit s) (execInit t) := by
  unfold Machine.execInit
  rw [h.seedOperand, h.blockCount]
  exact h.goTo _ ⟨rfl, rfl, rfl, rfl⟩

/-- Both states' reads stop alike, or answer alike and leave the same run (rule R9). -/
theorem SameObservably.memRead_cases (a n : Nat) :
    (∃ f, memRead a n s = .fault f ∧ memRead a n t = .fault f) ∨
    (∃ r, memRead a n s = .refused r ∧ memRead a n t = .refused r) ∨
    (∃ res s' t', memRead a n s = .next (res, s') ∧ memRead a n t = .next (res, t') ∧ SameObservably s' t' ∧
      s'.status = s.status) := by
  unfold memRead
  rw [h.cfg, h.nextAnswer, h.portBytes]
  split_ifs
  · exact .inr (.inr ⟨_, s, t, rfl, rfl, h, rfl⟩)
  · exact .inl ⟨_, rfl, rfl⟩
  · exact .inr (.inl ⟨_, rfl, rfl⟩)
  · split <;> exact .inr (.inr ⟨_, _, _, rfl, rfl, h.afterRequest a n, rfl⟩)

section
variable (hb : s.status.busy = true) (hp : s.status.phase ≠ 1)
include hb hp

theorem SameObservably.blockRound (v : BitVec 128) : SameObservably (s.blockRound v) (t.blockRound v) := by
  obtain ⟨h1, h2, hnb, hblk⟩ := h.2 hb hp
  rw [State.blockRound_eq_goTo s, State.blockRound_eq_goTo t, ← hnb, ← hblk]
  refine h.goTo _ ⟨?_, ?_, ?_, ?_⟩
  · rw [State.blockRound_w_h1, State.blockRound_w_h1, h1, h2]
  · rw [State.blockRound_w_h2, State.blockRound_w_h2, h1, h2]
  · rw [State.blockRound_w_nb, State.blockRound_w_nb, hnb]
  · rw [State.blockRound_w_blk, State.blockRound_w_blk, hblk]

theorem SameObservably.tailFold (r : Nat) (v : BitVec 128) : SameObservably (s.tailFold r v) (t.tailFold r v) := by
  obtain ⟨h1, h2, hnb, hblk⟩ := h.2 hb hp
  rw [State.tailFold_eq_goTo s, State.tailFold_eq_goTo t]
  refine h.goTo _ ⟨?_, ?_, ?_, ?_⟩
  · rw [State.tailFold_w_h1, State.tailFold_w_h1, h1]
  · rw [State.tailFold_w_h2, State.tailFold_w_h2, h2]
  · rw [State.tailFold_w_nb, State.tailFold_w_nb, hnb]
  · rw [State.tailFold_w_blk, State.tailFold_w_blk, hblk]

/-- A micro-op that changes the lanes alone leaves both states the same block counters (rules R210 to R212). -/
theorem SameObservably.goTo_lanes (h1 h2 : Word) (p : BitVec 4) :
    SameObservably (s.goTo (s.w.withLanes h1 h2) p) (t.goTo (t.w.withLanes h1 h2) p) := by
  obtain ⟨-, -, hnb, hblk⟩ := h.2 hb hp
  exact h.goTo p ⟨rfl, rfl, hnb, hblk⟩

theorem SameObservably.execBlock : SameOutcome (execBlock s) (execBlock t) := by
  obtain ⟨-, -, -, hblk⟩ := h.2 hb hp
  have ha : t.blockAddress t.w.blk = s.blockAddress s.w.blk := by unfold State.blockAddress; rw [h.src, hblk]
  unfold Machine.execBlock blockLoad
  rw [ha]
  rcases h.memRead_cases (s.blockAddress s.w.blk) 16 with ⟨f, hs, ht⟩ | ⟨r, hs, ht⟩ | ⟨res, s', t', hs, ht, h', hst⟩ <;>
    rw [hs, ht]
  · exact rfl
  · exact rfl
  · cases res with
    | ok v => exact h'.blockRound (by rw [hst]; exact hb) (by rw [hst]; exact hp) v
    | err => exact h'.stopRun _

theorem SameObservably.execTail : SameOutcome (execTail s) (execTail t) := by
  obtain ⟨-, -, hnb, -⟩ := h.2 hb hp
  have ha : t.tailAddress = s.tailAddress := by unfold State.tailAddress; rw [h.src, hnb]
  unfold Machine.execTail
  rw [ha, h.remainder]
  rcases h.memRead_cases s.tailAddress s.remainder with ⟨f, hs, ht⟩ | ⟨r, hs, ht⟩ | ⟨res, s', t', hs, ht, h', hst⟩ <;>
    rw [hs, ht]
  · exact rfl
  · exact rfl
  · cases res with
    | ok v => exact h'.tailFold (by rw [hst]; exact hb) (by rw [hst]; exact hp) _ v
    | err => exact h'.stopRun _

theorem SameObservably.execLfold : SameOutcome (execLfold s) (execLfold t) := by
  obtain ⟨h1, h2, -⟩ := h.2 hb hp
  unfold Machine.execLfold
  rw [h.len, ← h1, ← h2]
  exact h.goTo_lanes hb hp _ _ _

theorem SameObservably.execXlane : SameOutcome (execXlane s) (execXlane t) := by
  obtain ⟨h1, h2, -⟩ := h.2 hb hp
  unfold Machine.execXlane
  rw [← h1, ← h2]
  exact h.goTo_lanes hb hp _ _ _

theorem SameObservably.execFmix : SameOutcome (execFmix s) (execFmix t) := by
  obtain ⟨h1, h2, -⟩ := h.2 hb hp
  unfold Machine.execFmix
  rw [← h1, ← h2]
  exact h.goTo_lanes hb hp _ _ _

theorem SameObservably.execCombine : SameOutcome (execCombine s) (execCombine t) := by
  obtain ⟨h1, h2, -⟩ := h.2 hb hp
  unfold Machine.execCombine
  rw [← h1, ← h2]
  exact h.complete _ _

end

theorem SameObservably.exec_microOp {i : Instr} (hf : i.format = .phase) (hb : s.status.busy = true)
    (hp : s.status.phase = i.code) : SameOutcome (exec i s) (exec i t) := by
  cases i with
  | idle => exact h
  | init => exact h.execInit
  | block => exact h.execBlock hb (by rw [hp]; decide)
  | tail => exact h.execTail hb (by rw [hp]; decide)
  | lfold => exact h.execLfold hb (by rw [hp]; decide)
  | xlane => exact h.execXlane hb (by rw [hp]; decide)
  | fmix => exact h.execFmix hb (by rw [hp]; decide)
  | combine => exact h.execCombine hb (by rw [hp]; decide)
  | phaseReserved8 | phaseReserved9 | phaseReservedA | phaseReservedB | phaseReservedC | phaseReservedD
  | phaseReservedE | phaseReservedF => exact rfl
  | nop | hash | abort | clear | reserved4 | reserved5 | reserved6 | reserved7 | reserved8 | reserved9 | reservedA
  | reservedB | reservedC | reservedD | reservedE | reservedF => cases hf

/-! ### The turns -/

theorem SameObservably.engineTurn : SameOutcome (engineTurn s) (engineTurn t) := by
  obtain ⟨i, hf, hc, hs⟩ := engineTurn_exec s
  rw [hs, engineTurn_eq t hf (hc.trans h.engineCode.symm)]
  rcases State.engineCode_cases hf hc with ⟨-, rfl⟩ | ⟨hb, hp⟩
  · exact h
  · exact h.exec_microOp hf hb hp

theorem SameObservably.readAccess (addr width : Nat) :
    SameOutcome (readAccess addr width s) (readAccess addr width t) := by
  have hr : t.cfg.resolve addr width = s.cfg.resolve addr width := by rw [h.cfg]
  unfold Machine.readAccess
  rw [hr]
  split
  · rw [h.readSlot]; exact h.setReply _
  · exact rfl

theorem SameObservably.execWord_ctrl (n : Nat) (hn : n = 8 ∨ n = 4) (v : Word) :
    SameOutcome (execWord .ctrl (bytesLE n v.toNat) s) (execWord .ctrl (bytesLE n v.toNat) t) := by
  obtain ⟨i, hf, hc, hs⟩ := Machine.execWord_ctrl s n hn v
  obtain ⟨j, hf', hc', ht⟩ := Machine.execWord_ctrl t n hn v
  obtain rfl : i = j := Instr.eq_of_code (hf.trans hf'.symm) (hc.trans hc'.symm)
  rw [hs, ht]
  exact h.exec_command hf

theorem SameObservably.writeAccess (addr width : Nat) (data : Word) :
    SameOutcome (writeAccess addr width data s) (writeAccess addr width data t) := by
  unfold Machine.writeAccess
  rw [h.cfg]
  split
  · exact h
  · rename_i part _ _
    exact h.execWord_ctrl _ (by cases part <;> decide) data
  · rw [h.readSlot]; exact h.writeSlot _ _
  · exact rfl

theorem SameObservably.storeByte (a : Nat) (v : Byte) : SameOutcome (storeByte a v s) (storeByte a v t) := by
  have hsize : t.cfg.sourceSize = s.cfg.sourceSize := by rw [h.cfg]
  have hdev : t.cfg.touchesDevice a 1 = s.cfg.touchesDevice a 1 := by rw [h.cfg]
  have hreg : (t.status.busy && t.inRegion a) = (s.status.busy && s.inRegion a) := by rw [h.status, h.inRegion]
  unfold Machine.storeByte
  rw [hsize, hdev, hreg]
  split_ifs with _ _ hr
  · exact rfl
  · exact rfl
  · exact (h.writeByte a v).breach (Bool.and_eq_true_iff.1 hr).1 a
  · exact h.writeByte a v

theorem SameObservably.inputTurn (i : Input) : SameOutcome (inputTurn i s) (inputTurn i t) := by
  cases i with
  | engine => exact h.engineTurn
  | access a =>
    cases a with
    | read addr width => exact h.readAccess addr width
    | write addr width data => exact h.writeAccess addr width data
  | store a v => exact h.storeByte a v
  | reset => exact h.hardwareReset

theorem SameObservably.step : SameOutcome (step s) (step t) := by
  cases hi : s.inputs with
  | nil =>
    rw [step_engineMoves (.inl hi), step_engineMoves (.inl (h.inputs.trans hi))]
    exact h.turnTaken.engineTurn
  | cons i rest =>
    rw [step_input hi, step_input (h.inputs.trans hi)]
    exact h.turnTaken.inputTurn i

end

/-- Settles O56: no turn tells the two states apart, a state may have any working registers outside a run or before INIT, and no slot
shows one. -/
theorem workingRegistersUnobservable : Obligations.WorkingRegistersUnobservable :=
  ⟨fun _ _ h => h.step, sameObservably_of_unread, fun _ _ h r => (h.readSlot r).symm⟩

end Sys2Proof.Machine
end

section
/-! What a run reads of its region (rules R70, R77): the requests of a running run are inside it, and a run's lanes depend on the bytes
it has read alone. -/

namespace Sys2Proof.Machine

section
variable {s : State} (h : s.Inv) (hb : s.status.busy = true)
include h hb

/-- A running run past INIT is in BLOCK or TAIL, or in a later phase (rule R30). -/
theorem State.Inv.phase_cases (hp : s.status.phase ≠ 1) :
    (s.status.phase = 2 ∨ s.status.phase = 3) ∨ 4 ≤ s.status.phase.toNat := by
  obtain ⟨-, -, -, hlow, -⟩ := h.status.running hb
  bv_omega

/-- Past INIT, W.nb is the number of full blocks (rule R42). -/
theorem State.Inv.nb_toNat (hp : s.status.phase ≠ 1) : s.w.nb.toNat = s.len.toNat / 16 := by
  rw [h.blockCount hb hp, State.blockCount_toNat]

/-- The block to come is inside the region (rule R70). -/
theorem State.Inv.block_inside (hp : s.status.phase = 2) : 16 * s.w.blk.toNat + 16 ≤ s.len.toNat := by
  have hlt := h.blocksLeft hb hp
  rw [h.nb_toNat hb (by rw [hp]; decide)] at hlt
  omega

/-- The tail begins after the last full block (rule R190). -/
theorem State.Inv.tailAddress_eq (hp : s.status.phase ≠ 1) :
    s.tailAddress = s.src.toNat + 16 * (s.len.toNat / 16) := by
  rw [State.tailAddress, h.nb_toNat hb hp]

/-- From TAIL on every full block is counted (rule R174). -/
theorem State.Inv.blk_toNat (hp : 3 ≤ s.status.phase.toNat) : s.w.blk.toNat = s.len.toNat / 16 := by
  rw [h.blocksDone hb hp, h.nb_toNat hb (by rintro h1; simp [h1] at hp)]

/-- The source space has every byte of a running run's region, and each is ordinary memory (rules R70, R72). -/
theorem State.Inv.region_readable {a n : Nat} (hn : 0 < n) (h1 : s.src.toNat ≤ a)
    (h2 : a + n ≤ s.src.toNat + s.len.toNat) : a + n ≤ s.cfg.sourceSize ∧ s.cfg.touchesDevice a n = false := by
  have hfit := State.regionInvalid_eq_false.1 (h.regionFits hb)
  exact ⟨by omega, Config.touchesDevice_mono (h.regionOrdinary hb) h1 h2⟩

/-! ### The bytes read -/

theorem State.Inv.bytesRead_blocks (hp : s.status.phase = 2 ∨ s.status.phase = 3) :
    s.bytesRead = 16 * s.w.blk.toNat := by
  unfold State.bytesRead
  rcases hp with hp | hp
  · simp [hp]
  · simp [hp, h.blocksDone hb (by rw [hp]; decide)]

omit h hb in
theorem State.bytesRead_later (hp : 4 ≤ s.status.phase.toNat) : s.bytesRead = s.len.toNat := by
  unfold State.bytesRead
  rw [if_neg (by omega), if_neg (by rintro h2; simp [h2] at hp), if_neg (by rintro h3; simp [h3] at hp)]

theorem State.Inv.bytesRead_le (hp : s.status.phase ≠ 1) : s.bytesRead ≤ s.len.toNat := by
  rcases h.phase_cases hb hp with (h2 | h3) | h4
  · rw [h.bytesRead_blocks hb (.inl h2)]
    have := h.block_inside hb h2
    omega
  · rw [h.bytesRead_blocks hb (.inr h3), h.blk_toNat hb (by rw [h3]; decide)]
    omega
  · exact (State.bytesRead_later h4).le

/-- The lanes of a run depend on the bytes it has read alone (rule R217). -/
theorem State.Inv.lanesOn_take_bytesRead (hp : s.status.phase ≠ 1) {bytes : List Byte}
    (hlen : bytes.length = s.len.toNat) : s.lanesOn (bytes.take s.bytesRead) = s.lanesOn bytes := by
  rcases h.phase_cases hb hp with hblocks | h4
  · rw [State.lanesOn_blocks hblocks, State.lanesOn_blocks hblocks]
    refine digestBlocks_congr _ _ ?_
    rw [h.bytesRead_blocks hb hblocks, List.take_take, min_self]
  · rw [State.bytesRead_later h4, List.take_of_length_le hlen.le]

end

end Sys2Proof.Machine
end

section
/-! A run's lanes on a choice of the bytes written during it (rules R77, R216): the choice that each read of the run and each store to
its region needs, and that every step keeps one. -/

namespace Sys2Proof.Machine

/-! ### Choices -/

/-- A choice stays one while no byte of the region changes but those of listed addresses, and no address is struck off. -/
theorem State.IsChoice.congr {s t : State} {bytes : List Byte} (h : s.IsChoice bytes) (hlen : t.len = s.len)
    (hsrc : t.src = s.src)
    (hkeep : ∀ i, i < s.len.toNat → s.src.toNat + i ∉ t.touched →
      s.src.toNat + i ∉ s.touched ∧ t.mem.read (s.src.toNat + i) = s.mem.read (s.src.toNat + i)) :
    t.IsChoice bytes := by
  obtain ⟨hl, hr⟩ := h
  refine ⟨by rw [hlen, hl], fun i hi ht => ?_⟩
  rw [hlen] at hi
  rw [hsrc] at ht ⊢
  obtain ⟨hs, hread⟩ := hkeep i hi ht
  rw [hread, hr i hi hs]

/-- The bytes with the `n` from the `b`-th on read anew from the port. -/
def State.readInto (s : State) (bytes : List Byte) (b n : Nat) : List Byte :=
  bytes.take b ++ s.portBytes (s.src.toNat + b) n ++ bytes.drop (b + n)

section
variable {s : State} {bytes : List Byte} {b n : Nat} (h : b + n ≤ bytes.length)
include h

theorem State.readInto_length : (s.readInto bytes b n).length = bytes.length := by
  simp only [State.readInto, List.length_append, List.length_take, State.portBytes_length, List.length_drop]
  omega

theorem State.readInto_take : (s.readInto bytes b n).take b = bytes.take b := by
  rw [State.readInto, List.append_assoc, List.take_left' (by simp; omega)]

theorem State.readInto_drop : (s.readInto bytes b n).drop b = s.portBytes (s.src.toNat + b) n ++ bytes.drop (b + n) := by
  rw [State.readInto, List.append_assoc, List.drop_left' (by simp; omega)]

theorem State.readInto_piece : ((s.readInto bytes b n).drop b).take n = s.portBytes (s.src.toNat + b) n := by
  rw [State.readInto_drop h, List.take_left' (by simp)]

theorem State.readInto_getD (i : Nat) : (s.readInto bytes b n).getD i 0 =
    if b ≤ i ∧ i < b + n then s.portByte (s.draws + (i - b)) (s.src.toNat + i) else bytes.getD i 0 := by
  rw [State.readInto]
  rcases Nat.lt_or_ge i (b + n) with hi | hi
  · rw [List.getD_append _ _ _ _ (by simp; omega)]
    rcases Nat.lt_or_ge i b with hib | hib
    · rw [List.getD_append _ _ _ _ (by simp; omega), if_neg (by omega), List.getD_eq_getElem?_getD,
        List.getElem?_take_of_lt hib, List.getD_eq_getElem?_getD]
    · have hl : (bytes.take b).length = b := by simp; omega
      rw [List.getD_append_right _ _ _ _ (by omega), hl, List.getD_eq_getElem _ _ (by simp; omega),
        State.portBytes_getElem, if_pos ⟨hib, hi⟩, Nat.add_assoc, Nat.add_sub_cancel' hib]
  · have hl : (bytes.take b ++ s.portBytes (s.src.toNat + b) n).length = b + n := by simp; omega
    rw [List.getD_append_right _ _ _ _ (by omega), hl, if_neg (by omega), List.getD_eq_getElem?_getD, List.getElem?_drop,
      Nat.add_sub_cancel' hi, List.getD_eq_getElem?_getD]

end

/-- What the port returns for an address that is not listed is the memory's byte, so reading a choice's bytes anew gives a choice (rules
R75, R77). -/
theorem State.IsChoice.readInto {s : State} {bytes : List Byte} (h : s.IsChoice bytes) {b n : Nat}
    (hn : b + n ≤ s.len.toNat) : s.IsChoice (s.readInto bytes b n) := by
  obtain ⟨hl, hr⟩ := h
  refine ⟨by rw [State.readInto_length (by omega), hl], fun i hi ht => ?_⟩
  rw [State.readInto_getD (by omega)]
  split
  · rw [State.portByte, if_neg ht]
  · exact hr i hi ht


/-! ### What keeps the lanes on a choice -/

/-- Outside a run there are no lanes to match. -/
theorem State.LanesFitAChoice.of_idle {s : State} (hb : s.status.busy = false) : s.LanesFitAChoice := by
  intro hb'
  rw [hb] at hb'
  cases hb'

/-- Before INIT there are none either. -/
theorem State.LanesFitAChoice.of_init {s : State} (hp : s.status.phase = 1) : s.LanesFitAChoice :=
  fun _ hp' => absurd hp hp'

/-- Lanes on a choice stay on it where a step changes neither them nor the bytes they may be chosen from. -/
theorem State.LanesFitAChoice.congr {s t : State} (h : s.LanesFitAChoice) (hstatus : t.status = s.status)
    (hseed : t.seed = s.seed) (hw : t.w = s.w)
    (hchoice : s.status.busy = true → ∀ bytes, s.IsChoice bytes → t.IsChoice bytes) : t.LanesFitAChoice := by
  intro hb hp
  rw [hstatus] at hb hp
  obtain ⟨bytes, hc, hl⟩ := h hb hp
  exact ⟨bytes, hchoice hb bytes hc,
    by rw [hw, hl, State.lanesOn_congr hseed (by rw [hw]) (congrArg Status.phase hstatus)]⟩

theorem State.LanesFitAChoice.turnTaken {s : State} (h : s.LanesFitAChoice) : s.turnTaken.LanesFitAChoice :=
  h.congr rfl rfl rfl (fun _ _ hc => hc)

theorem State.LanesFitAChoice.setReply {s : State} (h : s.LanesFitAChoice) (v : Option Word) :
    ({ s with reply := v } : State).LanesFitAChoice :=
  h.congr rfl rfl rfl (fun _ _ hc => hc)

/-- While BUSY is 1 a slot write is ignored (rule R39). -/
theorem State.LanesFitAChoice.writeSlot {s : State} (h : s.LanesFitAChoice) (r : Slot) (v : Word) :
    (s.writeSlot r v).LanesFitAChoice := by
  cases hb : s.status.busy with
  | true => rw [State.writeSlot_busy hb]; exact h
  | false => exact .of_idle (by rw [(s.writeSlot_frame r v).2.1, hb])

/-! ### The micro-ops of a run -/

section
variable {s : State} (hs : s.Inv) (h : s.LanesFitAChoice) (hb : s.status.busy = true)

/-- INIT's lanes are those before the first block, whatever the bytes (rule R171). -/
theorem State.LanesFitAChoice.execInit {t : State} (he : execInit s = .next t) : t.LanesFitAChoice := by
  cases he
  refine fun _ _ => ⟨_, State.isChoice_regionBytes _, ?_⟩
  rw [State.lanesOn_blocks]
  · rfl
  · simp only [State.goTo_status, Status.toPhase_phase]
    split
    · exact .inl rfl
    · exact .inr rfl

include hs h hb

/-- A block round on what the port returned is rule R216's on the choice that has it for this block (rules R77, R173). -/
theorem State.LanesFitAChoice.blockRound (hp : s.status.phase = 2) (a n : Nat) :
    ((s.afterRequest a n).blockRound (leValue (s.portBytes (s.blockAddress s.w.blk) 16))).LanesFitAChoice := by
  intro _ _
  obtain ⟨bytes, hc, hl⟩ := h hb (by rw [hp]; decide)
  have hin := hs.block_inside hb hp
  have hlen : 16 * s.w.blk.toNat + 16 ≤ bytes.length := by rw [hc.1]; exact hin
  have hnext : (s.w.blk + 1).toNat = s.w.blk.toNat + 1 := by
    have := hs.blocksLeft hb hp
    bv_omega
  refine ⟨s.readInto bytes (16 * s.w.blk.toNat) 16, hc.readInto hin, ?_⟩
  have hround := (s.afterRequest a n).blockRound_lanes (s.readInto bytes (16 * s.w.blk.toNat) 16)
  rw [State.afterRequest_w, State.readInto_piece hlen, hl, State.lanesOn_blocks (.inl hp),
    digestBlocks_congr s.seed _ (State.readInto_take hlen).symm, ← digestBlocks_succ, ← hnext] at hround
  rw [State.lanesOn_blocks, State.blockRound_w_blk]
  · exact hround
  · rw [State.blockRound_status, Status.toPhase_phase]
    split
    · exact .inr rfl
    · exact .inl rfl

omit hs in
/-- With no tail byte step 3 of rule R216 is the fold of nothing (rules R119, R192). -/
theorem State.LanesFitAChoice.tailFold_empty (hp : s.status.phase = 3) (hr : s.remainder = 0) :
    (s.tailFold 0 0).LanesFitAChoice := by
  intro _ _
  obtain ⟨bytes, hc, hl⟩ := h hb (by rw [hp]; decide)
  have hr' : bytes.length % 16 = 0 := by rw [hc.1, ← State.remainder_eq, hr]
  have hfold := s.tailFold_lanes bytes
  rw [hr', List.drop_of_length_le (by omega), hl, State.lanesOn_blocks (.inr hp)] at hfold
  refine ⟨bytes, hc, ?_⟩
  rw [State.lanesOn_tail rfl, State.tailFold_w_blk]
  exact hfold

/-- A tail fold on what the port returned is step 3 of rule R216 on the choice that has it for the tail (rules R77, R192). -/
theorem State.LanesFitAChoice.tailFold (hp : s.status.phase = 3) (a n : Nat) :
    ((s.afterRequest a n).tailFold s.remainder
      (leValue (s.portBytes s.tailAddress s.remainder))).LanesFitAChoice := by
  intro _ _
  have hp1 : s.status.phase ≠ 1 := by rw [hp]; decide
  obtain ⟨bytes, hc, hl⟩ := h hb hp1
  have hin : 16 * (s.len.toNat / 16) + s.remainder ≤ s.len.toNat := by rw [State.remainder_eq]; omega
  have hlen : 16 * (s.len.toNat / 16) + s.remainder ≤ bytes.length := by rw [hc.1]; exact hin
  refine ⟨s.readInto bytes (16 * (s.len.toNat / 16)) s.remainder, hc.readInto hin, ?_⟩
  have hnew : (s.readInto bytes (16 * (s.len.toNat / 16)) s.remainder).length = s.len.toNat := by
    rw [State.readInto_length hlen, hc.1]
  have hpiece : (s.readInto bytes (16 * (s.len.toNat / 16)) s.remainder).drop (16 * (s.len.toNat / 16)) =
      s.portBytes s.tailAddress s.remainder := by
    rw [State.readInto_drop hlen, hs.tailAddress_eq hb hp1,
      List.drop_of_length_le (by rw [hc.1, State.remainder_eq]; omega), List.append_nil]
  have hfold := (s.afterRequest a n).tailFold_lanes (s.readInto bytes (16 * (s.len.toNat / 16)) s.remainder)
  rw [hnew, hpiece, ← State.remainder_eq, State.afterRequest_w, hl, State.lanesOn_blocks (.inr hp),
    hs.blk_toNat hb (by rw [hp]; decide), digestBlocks_congr s.seed _ (State.readInto_take hlen).symm] at hfold
  rw [State.lanesOn_tail rfl, State.tailFold_w_blk, State.afterRequest_w, hs.blk_toNat hb (by rw [hp]; decide)]
  exact hfold

omit hs

/-- A micro-op that changes the lanes alone keeps the choice when it does to them what rule R216 does at its line. -/
theorem State.LanesFitAChoice.goTo_lanes (hp : s.status.phase ≠ 1) {h1 h2 : Word} {p : BitVec 4}
    (hstep : ∀ bytes, s.IsChoice bytes → (s.w.h1, s.w.h2) = s.lanesOn bytes →
      (h1, h2) = (s.goTo (s.w.withLanes h1 h2) p).lanesOn bytes) :
    (s.goTo (s.w.withLanes h1 h2) p).LanesFitAChoice := by
  intro _ _
  obtain ⟨bytes, hc, hl⟩ := h hb hp
  exact ⟨bytes, hc, hstep bytes hc hl⟩

/-- LFOLD folds the length of the choice (rule R210). -/
theorem State.LanesFitAChoice.execLfold (hp : s.status.phase = 4) {t : State} (he : execLfold s = .next t) :
    t.LanesFitAChoice := by
  cases he
  refine h.goTo_lanes hb (by rw [hp]; decide) (fun bytes hc hl => ?_)
  rw [State.lanesOn_length rfl, State.goTo_w, Working.withLanes_blk, State.goTo_seed, ← State.lanesOn_tail hp, ← hl,
    digestLength, hc.length_eq]

theorem State.LanesFitAChoice.execXlane (hp : s.status.phase = 5) {t : State} (he : execXlane s = .next t) :
    t.LanesFitAChoice := by
  cases he
  refine h.goTo_lanes hb (by rw [hp]; decide) (fun bytes _ hl => ?_)
  rw [State.lanesOn_cross rfl, State.goTo_w, Working.withLanes_blk, State.goTo_seed, ← State.lanesOn_length hp, ← hl]
  rfl

theorem State.LanesFitAChoice.execFmix (hp : s.status.phase = 6) {t : State} (he : execFmix s = .next t) :
    t.LanesFitAChoice := by
  cases he
  refine h.goTo_lanes hb (by rw [hp]; decide) (fun bytes _ hl => ?_)
  rw [State.lanesOn_fmix rfl, State.goTo_w, Working.withLanes_blk, State.goTo_seed, ← State.lanesOn_cross hp, ← hl,
    digestFmix]

end

theorem exec_microOp_lanes {i : Instr} {s t : State} (hs : s.Inv) (hf : i.format = .phase) (hb : s.status.busy = true)
    (hp : s.status.phase = i.code) (hl : s.LanesFitAChoice) (h : exec i s = .next t) : t.LanesFitAChoice := by
  cases i with
  | idle => cases h; exact hl
  | init => exact .execInit h
  | block =>
    rcases execBlock_cases h with ⟨-, -, ⟨-, rfl⟩ | ⟨-, rfl⟩⟩
    · exact hl.blockRound hs hb hp _ _
    · exact .of_idle rfl
  | tail =>
    rcases execTail_cases h with ⟨hr, rfl⟩ | ⟨-, -, -, ⟨-, rfl⟩ | ⟨-, rfl⟩⟩
    · exact hl.tailFold_empty hb hp hr
    · exact hl.tailFold hs hb hp _ _
    · exact .of_idle rfl
  | lfold => exact hl.execLfold hb hp h
  | xlane => exact hl.execXlane hb hp h
  | fmix => exact hl.execFmix hb hp h
  | combine => cases h; exact .of_idle rfl
  | phaseReserved8 | phaseReserved9 | phaseReservedA | phaseReservedB | phaseReservedC | phaseReservedD
  | phaseReservedE | phaseReservedF => cases h
  | nop | hash | abort | clear | reserved4 | reserved5 | reserved6 | reserved7 | reserved8 | reserved9 | reservedA
  | reservedB | reservedC | reservedD | reservedE | reservedF => cases hf

/-- A command leaves a run as it was, ends it, or starts one (rules R111 to R115). -/
theorem exec_command_lanes {i : Instr} {s t : State} (hf : i.format = .ctrl) (hl : s.LanesFitAChoice)
    (h : exec i s = .next t) : t.LanesFitAChoice := by
  rcases exec_command_cases hf h with rfl | ⟨-, rfl⟩ | ⟨-, e, -, rfl⟩ | ⟨hb, rfl⟩ | ⟨-, -, -, rfl⟩
  · exact hl
  · exact .of_idle rfl
  · exact .of_idle rfl
  · exact .of_idle hb
  · exact .of_init rfl

/-! ### An agent's store -/

/-- A store that lists its address, or is outside the region, keeps every choice (rule R77). -/
theorem State.IsChoice.store {s t : State} {bytes : List Byte} (h : s.IsChoice bytes) (hm : s.mem.wf = true) {a : Nat}
    {v : Byte} (hlen : t.len = s.len) (hsrc : t.src = s.src) (hmem : t.mem = s.mem.write a v)
    (ht : t.touched = insertRising a s.touched ∨ t.touched = s.touched ∧ s.inRegion a = false) : t.IsChoice bytes := by
  refine h.congr hlen hsrc (fun i hi hi' => ?_)
  have hkeep : s.src.toNat + i ∉ s.touched ∧ s.src.toNat + i ≠ a := by
    rcases ht with ht | ⟨ht, hr⟩
    · rw [ht, mem_insertRising, not_or] at hi'
      exact ⟨hi'.2, hi'.1⟩
    · rw [ht] at hi'
      refine ⟨hi', ?_⟩
      rintro rfl
      simp [State.inRegion, hi] at hr
  rw [hmem, Memory.read_write a v _ hm, if_neg hkeep.2]
  exact ⟨hkeep.1, rfl⟩

/-- A redraw is what a run's lanes are on the memory's bytes with those it has read drawn anew (rule R77). -/
theorem State.LanesFitAChoice.redraw {s : State} (hs : s.Inv) : s.redraw.LanesFitAChoice := by
  intro hb hp
  rw [State.redraw_status] at hb hp
  have hread := hs.bytesRead_le hb hp
  have hlen : 0 + s.bytesRead ≤ s.regionBytes.length := by rw [s.isChoice_regionBytes.1]; omega
  have hc := s.isChoice_regionBytes.readInto (b := 0) (n := s.bytesRead) (by omega)
  refine ⟨_, hc, ?_⟩
  have hpiece := State.readInto_piece (s := s) hlen
  rw [List.drop_zero, Nat.add_zero] at hpiece
  rw [State.redraw_w_h1, State.redraw_w_h2, State.lanesOn_congr s.redraw_seed s.redraw_w_blk rfl,
    ← hs.lanesOn_take_bytesRead hb hp hc.1, hpiece]

theorem storeByte_lanes {a : Nat} {v : Byte} {s t : State} (hs : s.Inv) (hl : s.LanesFitAChoice)
    (h : storeByte a v s = .next t) : t.LanesFitAChoice := by
  obtain ⟨ha, -, ⟨hout, rfl⟩ | ⟨-, rfl⟩⟩ := storeByte_cases h
  · refine hl.congr rfl rfl rfl (fun hb bytes hc => hc.store hs.memory rfl rfl rfl (.inr ⟨rfl, ?_⟩))
    simpa [hb] using hout
  · rcases State.breach_cases { s with mem := s.mem.write a v } a with ⟨-, ht⟩ | ⟨-, ht⟩ <;> rw [ht]
    · exact hl.congr rfl rfl rfl (fun _ bytes hc => hc.store hs.memory rfl rfl rfl (.inl rfl))
    · exact .redraw ((hs.writeByte v ha).congr rfl rfl rfl rfl rfl rfl rfl (insertRising_rising hs.touchedRising))

/-! ### Every step, and COMBINE -/

theorem step_lanesFitAChoice {s t : State} (hs : s.Inv) (hl : s.LanesFitAChoice) (h : step s = .next t) :
    t.LanesFitAChoice := by
  have hs' := hs.turnTaken
  have hl' := hl.turnTaken
  rcases step_cases h with ⟨-, i, hf, hc, he⟩ | ⟨-, -, -, r, part, -, -, rfl⟩ | ⟨-, -, -, i, -, -, hf, -, he⟩ |
    ⟨-, -, -, -, r, v, -, rfl⟩ | ⟨a, v, -, -, he⟩ | ⟨-, -, rfl⟩
  · rcases State.engineCode_cases (s := s) hf hc with ⟨-, rfl⟩ | ⟨hb, hp⟩
    · cases he; exact hl'
    · exact exec_microOp_lanes (s := s.turnTaken) hs' hf hb hp hl' he
  · exact hl'.setReply _
  · exact exec_command_lanes hf hl' he
  · exact hl'.writeSlot r v
  · exact storeByte_lanes hs' hl' he
  · exact .of_idle rfl

/-- A run that ends without an error leaves STATUS 0x2 (rules R30, R213). -/
theorem Status.Legal.completed_toWord {st : Status} (h : st.Legal) (hb : st.busy = true) :
    st.completed.toWord = 0x2 := by
  obtain ⟨-, herr, hcode, -⟩ := h.running hb
  unfold Status.completed
  rw [herr, hcode]
  decide

/-- The last line of rule R216 on lanes that match the bytes is their digest. -/
theorem State.Inv.crossAdd_eq_hash128 {s : State} (hs : s.Inv) (hb : s.status.busy = true) (hp : s.status.phase = 7)
    {bytes : List Byte} (hlen : bytes.length = s.len.toNat) (hl : (s.w.h1, s.w.h2) = s.lanesOn bytes) :
    crossAdd s.w.h1 s.w.h2 = hash128 bytes s.seed := by
  rw [State.lanesOn_fmix hp, hs.blk_toNat hb (by rw [hp]; decide), ← hlen] at hl
  rw [hash128, hash128With, ← hl]
  rfl

/-- Settles O60: each step by the agent that moves, and COMBINE's cross addition as the digest's last line. -/
theorem stepKeepsLanesOnAChoice : Obligations.StepKeepsLanesOnAChoice := by
  refine ⟨fun s t hs hl h => step_lanesFitAChoice hs hl h, fun s hs hl hm hb hp => ?_⟩
  obtain ⟨bytes, hc, hlanes⟩ := hl hb (by rw [hp]; decide)
  refine ⟨_, bytes, step_microOp (i := .combine) hm rfl hb hp.symm, hs.status.completed_toWord hb, hc, ?_⟩
  exact hs.crossAdd_eq_hash128 hb hp hc.1 hlanes

end Sys2Proof.Machine
end

section
/-! The source memory and the port (rules R9, R66, R67, R72, R75): who may write a byte, what a store leaves, what a read returns, and
that a run starts on ordinary memory only. -/

namespace Sys2Proof.Machine

/-- A range touches a device exactly if some address is in both (rule R72). -/
theorem Config.touchesDevice_eq_true {c : Config} {a n : Nat} :
    c.touchesDevice a n = true ↔ ∃ r ∈ c.devices, ∃ x, a ≤ x ∧ x < a + n ∧ r.base ≤ x ∧ x < r.base + r.size := by
  rw [Config.touchesDevice, List.any_eq_true]
  refine exists_congr fun r => and_congr_right fun _ => ?_
  rw [decide_eq_true_iff]
  constructor
  · intro h
    exact ⟨max a r.base, by omega⟩
  · rintro ⟨x, hx⟩
    omega

/-- Settles O8: the region fits, so HASH comes to its last check, which the shared address fails. -/
theorem hashRefusesDeviceRegion : Obligations.HashRefusesDeviceRegion := by
  intro s hb hfit hdev
  have hr : s.regionInvalid = false := State.regionInvalid_eq_false.2 (.inr hfit)
  show execHash s = _
  unfold execHash
  rw [if_neg (by simp [hb]), if_neg (by simp [hr]), if_pos (Config.touchesDevice_eq_true.2 hdev)]

/-- Settles O29: the empty read is 0, and any other is the little-endian value of the port's bytes. -/
theorem portValueLittleEndian : Obligations.PortValueLittleEndian := by
  intro s t a n v hn h
  rcases memRead_cases h with ⟨rfl, hv, -⟩ | ⟨-, -, -, -, ⟨-, hv⟩ | ⟨-, hv⟩⟩ <;> cases hv
  · exact ⟨nofun, by decide⟩
  · have hl : (s.portBytes a n).length = n := State.portBytes_length s a n
    refine ⟨fun j hj => ?_, ?_⟩
    · rw [leValue_byte _ (by omega), List.getD_eq_getElem _ _ (by omega), State.portBytes_getElem]
    · have hlt := leValue_lt (s.portBytes a n)
      rwa [hl] at hlt

/-- No turn but an agent's store changes the memory (rule R66). -/
theorem step_mem {s t : State} (h : step s = .next t) (hns : ∀ a v rest, s.inputs ≠ .store a v :: rest) :
    t.mem = s.mem := by
  rcases step_cases h with ⟨-, i, -, -, he⟩ | ⟨-, -, -, r, part, -, -, rfl⟩ | ⟨-, -, -, i, -, -, -, -, he⟩ |
    ⟨-, -, -, -, r, v, -, rfl⟩ | ⟨a, v, rest, hi, -⟩ | ⟨-, -, rfl⟩
  · obtain ⟨-, -, -, -, hmem, -⟩ := exec_frame he
    exact hmem
  · rfl
  · obtain ⟨-, -, -, -, hmem, -⟩ := exec_frame he
    exact hmem
  · obtain ⟨-, -, -, -, -, hmem, -⟩ := s.turnTaken.writeSlot_frame r v
    exact hmem
  · exact absurd hi (hns a v rest)
  · rfl

/-- Settles O37: no instruction writes the memory, and no turn but a store does. -/
theorem onlyStoresWriteMemory : Obligations.OnlyStoresWriteMemory := by
  refine ⟨fun i s t h a => ?_, fun s t h hns a => by rw [step_mem h hns]⟩
  obtain ⟨-, -, -, -, hmem, -⟩ := exec_frame h
  rw [hmem]

/-! ### An agent's store -/

/-- A store writes its byte, whether or not it breaches a run (rules R66, R77). -/
theorem storeByte_mem {a : Nat} {v : Byte} {s t : State} (h : storeByte a v s = .next t) :
    t.mem = s.mem.write a v := by
  obtain ⟨-, -, ⟨-, rfl⟩ | ⟨-, rfl⟩⟩ := storeByte_cases h
  · rfl
  · obtain ⟨-, -, -, -, -, -, -, hmem, -⟩ := State.breach_frame { s with mem := s.mem.write a v } a
    exact hmem

/-- A slot's value is read from STATUS, the operands and the results alone (rules R23 to R37). -/
theorem State.readSlot_congr {s t : State} (hstatus : t.status = s.status) (hseed : t.seed = s.seed)
    (hlen : t.len = s.len) (hsrc : t.src = s.src) (hresult : t.result = s.result) (hresultH2 : t.resultH2 = s.resultH2)
    (r : Slot) : t.readSlot r = s.readSlot r := by
  cases r with
  | ctrl | reserved => rfl
  | status => exact congrArg Status.toWord hstatus
  | seed => exact congrArg (BitVec.setWidth 64) hseed
  | len => exact hlen
  | src => exact hsrc
  | result => exact hresult
  | resultH2 => exact hresultH2

/-- Settles O38: a store's memory is the old one with its byte written, and its frame holds every slot. -/
theorem storeReplacesOneByte : Obligations.StoreReplacesOneByte := by
  intro s t a v rest hm hi h
  rw [step_input hi] at h
  have hmem : t.mem = s.mem.write a v := storeByte_mem (s := s.turnTaken) h
  obtain ⟨-, hstatus, hseed, hlen, hsrc, hresult, hresultH2⟩ := storeByte_frame (s := s.turnTaken) h
  refine ⟨fun b => ?_, ?_, State.readSlot_congr hstatus hseed hlen hsrc hresult hresultH2⟩
  · rw [hmem, Memory.read_write a v b hm]
  · rw [hmem]
    exact Memory.write_wf a v hm

end Sys2Proof.Machine
end

section
/-! A store to the region of a running run (rule R77): the run goes on, the address stays listed, and its byte is free in every read. -/

namespace Sys2Proof.Machine

/-- A store to an ordinary byte of the source space has a next state (rules R66, R72). -/
theorem storeByte_answers {a : Nat} (v : Byte) {s : State} (ha : a < s.cfg.sourceSize)
    (hd : s.cfg.touchesDevice a 1 = false) : ∃ t, storeByte a v s = .next t := by
  unfold storeByte
  rw [if_neg (by omega), if_neg (by simp [hd])]
  dsimp only
  split
  · exact ⟨_, rfl⟩
  · exact ⟨_, rfl⟩

theorem State.inRegion_eq_true {s : State} {a : Nat} :
    s.inRegion a = true ↔ s.src.toNat ≤ a ∧ a < s.src.toNat + s.len.toNat := by
  simp [State.inRegion]

/-- A store to the region of a running run breaches it (rule R77). -/
theorem State.Inv.storeByte_breach {s : State} (hs : s.Inv) (hb : s.status.busy = true) {a : Nat} (v : Byte)
    (h1 : s.src.toNat ≤ a) (h2 : a < s.src.toNat + s.len.toNat) :
    storeByte a v s = .next (({ s with mem := s.mem.write a v } : State).breach a) := by
  obtain ⟨hsize, hdev⟩ := hs.region_readable hb (a := a) (n := 1) (by omega) h1 (by omega)
  obtain ⟨t, ht⟩ := storeByte_answers v (show a < s.cfg.sourceSize by omega) hdev
  obtain ⟨-, -, ⟨hr, -⟩ | ⟨-, rfl⟩⟩ := storeByte_cases ht
  · simp [hb, State.inRegion_eq_true.2 ⟨h1, h2⟩] at hr
  · exact ht

theorem State.breach_unread {s : State} {a : Nat} (h : s.bytesRead ≤ a - s.src.toNat) : (s.breach a).w = s.w := by
  rcases s.breach_cases a with ⟨-, ht⟩ | ⟨hlt, -⟩
  · rw [ht]
  · omega

/-- A breach of a byte the run has read leaves rule R216's lanes on what the port returns now (rule R77). -/
theorem State.breach_read {s : State} {a : Nat} (h : a - s.src.toNat < s.bytesRead) :
    ((s.breach a).w.h1, (s.breach a).w.h2) = (s.breach a).lanesOn
      (({ s with touched := insertRising a s.touched } : State).portBytes s.src.toNat s.bytesRead) := by
  rcases s.breach_cases a with ⟨hle, -⟩ | ⟨-, ht⟩
  · omega
  · rw [ht, State.redraw_w_h1, State.redraw_w_h2,
      State.lanesOn_congr (State.redraw_seed _) (State.redraw_w_blk _) (congrArg Status.phase (State.redraw_status _))]
    rfl

/-- While a run goes on no instruction strikes an address off the list (rule R77). -/
theorem exec_touched {i : Instr} {s t : State} (h : exec i s = .next t) (hb : s.status.busy = true) :
    t.touched = s.touched := by
  cases i with
  | hash =>
    rcases execHash_cases h with ⟨-, rfl⟩ | ⟨-, -, rfl⟩ | ⟨hb', -⟩
    · rfl
    · rfl
    · rw [hb] at hb'; cases hb'
  | abort => rcases execAbort_cases h with ⟨-, rfl⟩ | ⟨-, rfl⟩ <;> rfl
  | clear => rcases execClear_cases h with ⟨-, rfl⟩ | ⟨-, rfl⟩ <;> rfl
  | block => rcases execBlock_cases h with ⟨-, -, ⟨-, rfl⟩ | ⟨-, rfl⟩⟩ <;> rfl
  | tail => rcases execTail_cases h with ⟨-, rfl⟩ | ⟨-, -, -, ⟨-, rfl⟩ | ⟨-, rfl⟩⟩ <;> rfl
  | nop | idle | init | lfold | xlane | fmix | combine => cases h; rfl
  | reserved4 | reserved5 | reserved6 | reserved7 | reserved8 | reserved9 | reservedA | reservedB | reservedC
  | reservedD | reservedE | reservedF => rcases reservedCommand_cases h with ⟨-, rfl⟩ | ⟨-, rfl⟩ <;> rfl
  | phaseReserved8 | phaseReserved9 | phaseReservedA | phaseReservedB | phaseReservedC | phaseReservedD
  | phaseReservedE | phaseReservedF => cases h

/-- A store strikes no address off the list (rule R77). -/
theorem storeByte_touched {a b : Nat} {v : Byte} {s t : State} (h : storeByte a v s = .next t) (hb : b ∈ s.touched) :
    b ∈ t.touched := by
  obtain ⟨-, -, ⟨-, rfl⟩ | ⟨-, rfl⟩⟩ := storeByte_cases h
  · exact hb
  · obtain ⟨-, -, -, -, -, -, -, -, -, -, -, -, ht, -⟩ := State.breach_frame { s with mem := s.mem.write a v } a
    rw [ht]
    exact mem_insertRising.2 (.inr hb)

theorem step_touched {s t : State} (hb : s.status.busy = true) (h : step s = .next t) (hb' : t.status.busy = true)
    {b : Nat} (hmem : b ∈ s.touched) : b ∈ t.touched := by
  rcases step_cases h with ⟨-, i, -, -, he⟩ | ⟨-, -, -, r, part, -, -, rfl⟩ | ⟨-, -, -, i, -, -, -, -, he⟩ |
    ⟨-, -, -, -, r, v, -, rfl⟩ | ⟨a, v, -, -, he⟩ | ⟨-, -, rfl⟩
  · rw [exec_touched he hb]; exact hmem
  · exact hmem
  · rw [exec_touched he hb]; exact hmem
  · rw [State.writeSlot_busy (s := s.turnTaken) hb]; exact hmem
  · exact storeByte_touched he hmem
  · cases hb'

/-- What the port returns after a store that lists its address (rules R75, R77). -/
theorem State.portBytes_afterStore {s : State} (hm : s.mem.wf = true) {a : Nat} {v : Byte} (b n : Nat) :
    ({ s with mem := s.mem.write a v, touched := insertRising a s.touched } : State).portBytes b n =
      (List.range n).map (fun j => if b + j ∈ insertRising a s.touched then Config.freeByte (s.draws + j)
        else s.mem.read (b + j)) := by
  refine List.map_congr_left fun j _ => ?_
  unfold State.portByte
  by_cases hj : b + j ∈ insertRising a s.touched
  · rw [if_pos hj, if_pos hj]
  · have hne : b + j ≠ a := by
      rintro rfl
      exact hj (mem_insertRising.2 (.inl rfl))
    rw [if_neg hj, if_neg hj, Memory.read_write a v _ hm, if_neg hne]

/-- Settles O51: a store to the region is a breach of the run, no other turn strikes an address off the list while the run goes on, and the
port draws a byte for a listed address. -/
theorem breachedByteIsFree : Obligations.BreachedByteIsFree := by
  refine ⟨fun s a v rest hs hb hi h1 h2 => ?_, fun s t hb h hb' a ha => step_touched hb h hb' ha,
    fun s a ha d => if_pos ha⟩
  have hstep : step s = .next (({ s.turnTaken with mem := s.mem.write a v } : State).breach a) := by
    rw [step_input hi]
    exact hs.turnTaken.storeByte_breach hb v h1 h2
  obtain ⟨-, hstatus, -, -, -, -, -, -, -, -, -, -, ht, -⟩ :=
    State.breach_frame { s.turnTaken with mem := s.mem.write a v } a
  refine ⟨_, hstep, hstatus, ?_, State.breach_unread (s := { s.turnTaken with mem := s.mem.write a v }), fun hr => ?_⟩
  · rw [ht]
    exact mem_insertRising.2 (.inl rfl)
  · rw [State.breach_read (s := { s.turnTaken with mem := s.mem.write a v }) hr, ht]
    congr 1
    exact State.portBytes_afterStore (s := s.turnTaken) hs.memory _ _

end Sys2Proof.Machine
end

section
/-! The register window's accesses (rules R61 to R64): the halves of a slot, and that what resolves is aligned and in the window. -/

namespace Sys2Proof.Machine

/-- A pending read returns its part of the slot it reaches (rules R61, R62, R116). -/
theorem step_read {s : State} {addr width : Nat} {rest : List Input} {r : Slot} {part : Part}
    (hr : s.cfg.resolve addr width = some (r, part)) :
    step { s with inputs := .access (.read addr width) :: rest } =
      .next { s with inputs := rest, reply := some (part.select (s.readSlot r)) } := by
  rw [step_input rfl]
  show readAccess addr width { s with inputs := rest } = _
  unfold readAccess
  rw [hr]
  cases r <;> rfl

/-- The low half is bits 31:0 of the value (rule R62). -/
theorem Part.select_lo_toNat (v : Word) : (Part.lo.select v).toNat = v.toNat % 2 ^ 32 := by
  simp only [Part.select, BitVec.toNat_setWidth, BitVec.extractLsb'_toNat, Nat.shiftRight_zero]
  omega

/-- The high half is bits 63:32 of the value (rule R62). -/
theorem Part.select_hi_toNat (v : Word) : (Part.hi.select v).toNat = v.toNat / 2 ^ 32 := by
  simp only [Part.select, BitVec.toNat_setWidth, BitVec.extractLsb'_toNat, Nat.shiftRight_eq_div_pow]
  omega

/-- Settles O34: the replies are the low and the high half, and a value is its high half times `2^32` plus its low half. -/
theorem halfSlotReads : Obligations.HalfSlotReads := by
  intro s rest r
  obtain ⟨-, hlo, hhi⟩ := resolve_slot s.cfg r
  refine ⟨_, _, step_read hlo, step_read hhi, ?_⟩
  rw [Part.select_lo_toNat, Part.select_hi_toNat]
  omega

/-! ### What rule R63 refuses -/

theorem Slot.atOffset_eq_some {off : Nat} {r : Slot} (h : Slot.atOffset off = some r) : r.offset = off := by
  have hfound := List.find?_some h
  exact beq_iff_eq.1 hfound

/-- Every slot is eight bytes of the window's 0x40 (rule R22). -/
theorem Slot.offset_bounds (r : Slot) : r.offset % 8 = 0 ∧ r.offset < 0x40 := by
  cases r <;> decide

/-- An access that resolves is of 64 bits at a slot, or of 32 bits at one of its halves (rules R61, R62). -/
theorem resolve_eq_some {c : Config} {addr width : Nat} {r : Slot} {part : Part}
    (h : c.resolve addr width = some (r, part)) (hle : c.regBase ≤ addr) :
    (width = 64 ∧ addr - c.regBase = r.offset) ∨
    (width = 32 ∧ (addr - c.regBase = r.offset ∨ addr - c.regBase = r.offset + 4)) := by
  unfold Config.resolve at h
  rw [if_neg (by omega)] at h
  dsimp only at h
  split at h
  case isTrue hw =>
    obtain ⟨r', hr, he⟩ := Option.map_eq_some_iff.1 h
    cases he
    exact .inl ⟨hw, (Slot.atOffset_eq_some hr).symm⟩
  case isFalse =>
    split at h
    case isTrue hw =>
      split at h <;> obtain ⟨r', hr, he⟩ := Option.map_eq_some_iff.1 h <;> cases he <;>
        have hoff := Slot.atOffset_eq_some hr
      · exact .inr ⟨hw, .inr (by omega)⟩
      · exact .inr ⟨hw, .inl hoff.symm⟩
    case isFalse => cases h

/-- An access that reaches no slot has no step (rule R63). -/
theorem accessTurn_refused {a : Access} {s : State} (h : s.cfg.resolve a.addr a.width = none) :
    accessTurn a s = .refused .registerAccess := by
  cases a with
  | read addr width =>
    show readAccess addr width s = _
    unfold readAccess
    rw [show s.cfg.resolve addr width = none from h]
  | write addr width data =>
    show writeAccess addr width data s = _
    unfold writeAccess
    rw [show s.cfg.resolve addr width = none from h]

/-- Settles O36: an access that resolved would have the width, the alignment and the offset that each ground excludes. -/
theorem otherAccessesRefused : Obligations.OtherAccessesRefused := by
  intro s rest a hle hground
  rw [step_input rfl]
  refine accessTurn_refused (Option.eq_none_iff_forall_ne_some.2 ?_)
  rintro ⟨r, part⟩ hr
  obtain ⟨h8, h64⟩ := Slot.offset_bounds r
  rcases resolve_eq_some hr hle with ⟨hw, ho⟩ | ⟨hw, ho | ho⟩ <;> simp only [State.turnTaken_cfg] at ho <;>
    rw [hw, ho] at hground <;> omega

end Sys2Proof.Machine
end

section
/-! Every allowed turn of a machine that keeps the invariant has a next state (rules R70, R72, R97), and what a run's micro-ops
request (rules R70, R71). -/

namespace Sys2Proof.Machine

/-! ### The engine -/

/-- A read of no byte, or of ordinary bytes of the source space, answers (rules R9, R72). -/
theorem memRead_answers {a n : Nat} {s : State}
    (h : 0 < n → a + n ≤ s.cfg.sourceSize ∧ s.cfg.touchesDevice a n = false) :
    ∃ res s', memRead a n s = .next (res, s') := by
  rcases Nat.eq_zero_or_pos n with rfl | hn
  · exact ⟨_, _, memRead_zero a s⟩
  · obtain ⟨hs, hd⟩ := h hn
    rcases s.nextAnswer_ok_or_err with hp | hp
    · exact ⟨_, _, memRead_ok hn hs hd hp⟩
    · exact ⟨_, _, memRead_err hn hs hd hp⟩

theorem execBlock_answers {s : State} (h : ∃ res s', memRead (s.blockAddress s.w.blk) 16 s = .next (res, s')) :
    ∃ t, execBlock s = .next t := by
  obtain ⟨res, s', hm⟩ := h
  unfold execBlock blockLoad
  rw [hm]
  cases res with
  | ok v => exact ⟨_, rfl⟩
  | err => exact ⟨_, rfl⟩

theorem execTail_answers {s : State} (h : ∃ res s', memRead s.tailAddress s.remainder s = .next (res, s')) :
    ∃ t, execTail s = .next t := by
  obtain ⟨res, s', hm⟩ := h
  unfold execTail
  rw [hm]
  cases res with
  | ok v => exact ⟨_, rfl⟩
  | err => exact ⟨_, rfl⟩

section
variable {s : State} (h : s.Inv) (hb : s.status.busy = true)
include h hb

theorem State.Inv.execBlock_answers (hp : s.status.phase = 2) : ∃ t, execBlock s = .next t := by
  have hin := h.block_inside hb hp
  exact Machine.execBlock_answers (memRead_answers fun hn =>
    h.region_readable hb hn (Nat.le_add_right ..) (by unfold State.blockAddress; omega))

theorem State.Inv.execTail_answers (hp : s.status.phase = 3) : ∃ t, execTail s = .next t := by
  have ha := h.tailAddress_eq hb (by rw [hp]; decide)
  have hr := s.remainder_eq
  exact Machine.execTail_answers (memRead_answers fun hn =>
    h.region_readable hb hn (Nat.le_add_right ..) (by rw [ha, hr]; omega))

/-- No running run is in a phase of code 8 or more (rules R30, R97). -/
theorem State.Inv.microOp_answers {i : Instr} (hf : i.format = .phase) (hp : s.status.phase = i.code) :
    ∃ t, exec i s = .next t := by
  cases i with
  | idle | init | lfold | xlane | fmix | combine => exact ⟨_, rfl⟩
  | block => exact h.execBlock_answers hb hp
  | tail => exact h.execTail_answers hb hp
  | phaseReserved8 | phaseReserved9 | phaseReservedA | phaseReservedB | phaseReservedC | phaseReservedD
  | phaseReservedE | phaseReservedF =>
    obtain ⟨-, -, -, -, h7⟩ := h.status.running hb
    rw [hp] at h7
    exact absurd h7 (by decide)
  | nop | hash | abort | clear | reserved4 | reserved5 | reserved6 | reserved7 | reserved8 | reserved9 | reservedA
  | reservedB | reservedC | reservedD | reservedE | reservedF => cases hf

end

theorem State.Inv.engineTurn_answers {s : State} (h : s.Inv) : ∃ t, engineTurn s = .next t := by
  obtain ⟨i, hf, hc, he⟩ := engineTurn_exec s
  rw [he]
  rcases State.engineCode_cases hf hc with ⟨-, rfl⟩ | ⟨hb, hp⟩
  · exact ⟨s, rfl⟩
  · exact h.microOp_answers hb hf hp

/-! ### The host -/

/-- A choice between two next states is one. -/
theorem ite_next_answers {c : Prop} [Decidable c] (s t : State) :
    ∃ u, (if c then .next s else .next t : Host.Outcome State Fault Refusal) = .next u := by
  split
  · exact ⟨s, rfl⟩
  · exact ⟨t, rfl⟩

/-- Of the commands HASH alone can be without a next state, on a region that is not ordinary memory (rule R72). -/
theorem exec_command_answers {i : Instr} {s : State} (hf : i.format = .ctrl)
    (hd : s.cfg.touchesDevice s.src.toNat s.len.toNat = false) : ∃ t, exec i s = .next t := by
  cases i with
  | nop => exact ⟨s, rfl⟩
  | hash =>
    show ∃ t, execHash s = .next t
    unfold execHash
    rw [if_neg (c := s.cfg.touchesDevice _ _ = true) (by simp [hd])]
    split
    · exact ⟨s, rfl⟩
    · exact ite_next_answers _ _
  | abort | clear => exact ite_next_answers _ _
  | reserved4 | reserved5 | reserved6 | reserved7 | reserved8 | reserved9 | reservedA | reservedB | reservedC
  | reservedD | reservedE | reservedF => exact ite_next_answers _ _
  | idle | init | block | tail | lfold | xlane | fmix | combine | phaseReserved8 | phaseReserved9 | phaseReservedA
  | phaseReservedB | phaseReservedC | phaseReservedD | phaseReservedE | phaseReservedF => cases hf

/-- An access that reaches a slot has a next state (rules R61, R62, R110, R117). -/
theorem accessTurn_answers {a : Access} {s : State} {r : Slot} {part : Part}
    (hr : s.cfg.resolve a.addr a.width = some (r, part))
    (hd : s.cfg.touchesDevice s.src.toNat s.len.toNat = false) : ∃ t, accessTurn a s = .next t := by
  cases a with
  | read addr width =>
    show ∃ t, readAccess addr width s = .next t
    unfold readAccess
    rw [show s.cfg.resolve addr width = some (r, part) from hr]
    exact ⟨_, rfl⟩
  | write addr width data =>
    show ∃ t, writeAccess addr width data s = .next t
    unfold writeAccess
    split
    · exact ⟨s, rfl⟩
    · rename_i part' _ _
      obtain ⟨i, hf, -, he⟩ := execWord_ctrl s part'.dataBytes (by cases part' <;> decide) data
      rw [he]
      exact exec_command_answers hf hd
    · exact ⟨_, rfl⟩
    · rename_i hnone
      cases hnone.symm.trans hr

/-! ### Every allowed turn -/

/-- Settles O49: the engine by the invariant, an access because it reaches a slot, a store because its byte exists and is ordinary. -/
theorem allowedTurnsHaveASuccessor : Obligations.AllowedTurnsHaveASuccessor := by
  intro s hs hallowed hd
  cases hi : s.inputs with
  | nil =>
    rw [step_engineMoves (.inl hi)]
    exact hs.turnTaken.engineTurn_answers
  | cons i rest =>
    rw [step_input hi]
    unfold State.NextTurnAllowed at hallowed
    rw [hi] at hallowed
    cases i with
    | engine => exact hs.turnTaken.engineTurn_answers
    | access a =>
      obtain ⟨r, ⟨-, -, hr⟩ | ⟨-, -, hr⟩ | ⟨-, -, hr⟩⟩ := resolve_of_wf (c := s.cfg) hallowed <;>
        exact accessTurn_answers (s := s.turnTaken) hr hd
    | store a v => exact storeByte_answers (s := s.turnTaken) v hallowed.1 hallowed.2
    | reset => exact ⟨_, rfl⟩

/-! ### Requests -/

/-- BLOCK requests its block, whatever the port answers (rules R70, R172). -/
theorem execBlock_request {s t : State} (h : execBlock s = .next t) :
    t.request = some { addr := s.blockAddress s.w.blk, count := 16 } := by
  rcases execBlock_cases h with ⟨-, -, ⟨-, rfl⟩ | ⟨-, rfl⟩⟩
  · rfl
  · rfl

/-- TAIL requests the tail bytes, or nothing if there is none (rules R70, R119, R192). -/
theorem execTail_request {s t : State} (h : execTail s = .next t) :
    t.request = if s.remainder = 0 then s.request else some { addr := s.tailAddress, count := s.remainder } := by
  rcases execTail_cases h with ⟨hr, rfl⟩ | ⟨hr, -, -, ⟨-, rfl⟩ | ⟨-, rfl⟩⟩
  · rw [if_pos hr]; rfl
  · rw [if_neg hr.ne']; rfl
  · rw [if_neg hr.ne']; rfl

/-- No other micro-op makes a request (rule R70). -/
theorem exec_microOp_request {i : Instr} {s t : State} (hf : i.format = .phase) (hblock : i ≠ .block) (htail : i ≠ .tail)
    (h : exec i s = .next t) : t.request = s.request := by
  cases i with
  | block => exact absurd rfl hblock
  | tail => exact absurd rfl htail
  | idle | init | lfold | xlane | fmix | combine => cases h; rfl
  | phaseReserved8 | phaseReserved9 | phaseReservedA | phaseReservedB | phaseReservedC | phaseReservedD
  | phaseReservedE | phaseReservedF => cases h
  | nop | hash | abort | clear | reserved4 | reserved5 | reserved6 | reserved7 | reserved8 | reserved9 | reservedA
  | reservedB | reservedC | reservedD | reservedE | reservedF => cases hf

/-- Settles O50: the micro-op PHASE names makes the request, at addresses the block counters keep inside the region. -/
theorem requestsCoverRegion : Obligations.RequestsCoverRegion := by
  intro s t hs hb hm h
  obtain ⟨i, -, hf, hc⟩ := decodeCode_spec .phase s.status.phase
  rw [step_microOp hm hf hb hc] at h
  refine ⟨fun hp => ?_, fun hp => ?_, fun h2 h3 => ?_⟩
  · obtain rfl : i = .block := Instr.eq_of_code hf (hc.trans hp)
    exact ⟨execBlock_request (s := s.turnTaken) h, hs.block_inside hb hp⟩
  · obtain rfl : i = .tail := Instr.eq_of_code hf (hc.trans hp)
    rw [← s.remainder_eq, ← hs.tailAddress_eq hb (by rw [hp]; decide)]
    exact execTail_request (s := s.turnTaken) h
  · refine exec_microOp_request (s := s.turnTaken) hf ?_ ?_ h
    · rintro rfl; exact h2 hc.symm
    · rintro rfl; exact h3 hc.symm

end Sys2Proof.Machine
end

section
/-! Decode and encode (rules R90, R91, R93, R96): which words and which bytes are which row, and what a write of CTRL's command field
does. -/

namespace Sys2Proof

/-- A code of a format is exactly one row's (rules R91, R93). -/
theorem decodeCode_eq_ok_iff {f : Format} {c : BitVec 4} {i : Instr} :
    decodeCode f c = .ok i ↔ i.format = f ∧ i.code = c := by
  constructor
  · intro h
    obtain ⟨j, hj, hf, hc⟩ := decodeCode_spec f c
    obtain rfl : j = i := Except.ok.inj (hj.symm.trans h)
    exact ⟨hf, hc⟩
  · rintro ⟨rfl, rfl⟩
    exact decodeCode_code i

/-- A CTRL word is the command of its bits 3:0 (rules R90, R91, R96). -/
theorem decode_ctrl_eq_ok_iff {n : Nat} (hn : n = 8 ∨ n = 4) {i : Instr} {v : Word} :
    decode .ctrl (bytesLE n v.toNat) = .ok i ↔ i.format = .ctrl ∧ i.code = v.extractLsb' 0 4 := by
  rw [decode_ctrl n hn, decodeCode_eq_ok_iff]

/-! ### PHASE bytes -/

theorem toNat_setWidth_phase_lt (c : BitVec 4) : (c.setWidth 8).toNat < 16 := by
  have := c.isLt
  rw [BitVec.toNat_setWidth]
  omega

/-- Two PHASE codes with one byte are the same. -/
theorem setWidth_phase_inj {c d : BitVec 4} : c.setWidth 8 = d.setWidth 8 ↔ c = d := by
  refine ⟨fun h => ?_, congrArg _⟩
  simpa using congrArg (BitVec.setWidth 4) h

/-- A byte below 16 is its low nibble, zero-extended. -/
theorem setWidth_lowNibble {b : Byte} (h : b.toNat < 16) : (lowNibble b).setWidth 8 = b := by
  apply BitVec.eq_of_toNat_eq
  simp only [lowNibble, BitVec.toNat_setWidth, BitVec.extractLsb'_toNat, Nat.shiftRight_zero]
  omega

theorem decode_phase_of_ge {b : Byte} (h : ¬ b.toNat < 16) : decode .phase [b] = .error (.phaseWidth b) := if_neg h

/-- A byte is the micro-op whose PHASE code it is, and no instruction from 16 on (rule R93). -/
theorem decode_phase_eq_ok_iff {i : Instr} {b : Byte} :
    decode .phase [b] = .ok i ↔ i.format = .phase ∧ b = i.code.setWidth 8 := by
  by_cases hb : b.toNat < 16
  · obtain ⟨c, rfl⟩ : ∃ c : BitVec 4, c.setWidth 8 = b := ⟨_, setWidth_lowNibble hb⟩
    rw [decode_phase, decodeCode_eq_ok_iff, eq_comm (a := c.setWidth 8), setWidth_phase_inj]
  · rw [decode_phase_of_ge hb]
    refine iff_of_false nofun ?_
    rintro ⟨-, rfl⟩
    exact hb (toNat_setWidth_phase_lt _)

/-! ### The encoder's words -/

theorem encode_ctrl {i : Instr} (h : i.format = .ctrl) : encode i = bytesLE 8 (i.code.setWidth 64).toNat := by
  unfold encode
  rw [h, BitVec.toNat_setWidth_of_le (by omega)]

theorem encode_phase {i : Instr} (h : i.format = .phase) : encode i = [i.code.setWidth 8] := by
  unfold encode
  rw [h, ← BitVec.ofNat_toNat]
  rfl

theorem wordWf_encode (i : Instr) : wordWf i.format (encode i) = true := by
  cases h : i.format with
  | ctrl => simp [encode_ctrl h, wordWf]
  | phase => simpa [encode_phase h, wordWf] using toNat_setWidth_phase_lt i.code

theorem decode_encode (i : Instr) : decode i.format (encode i) = .ok i := by
  cases h : i.format with
  | ctrl =>
    rw [encode_ctrl h, decode_ctrl_eq_ok_iff (.inl rfl)]
    refine ⟨h, ?_⟩
    rw [← BitVec.setWidth_eq_extractLsb' (by omega), BitVec.setWidth_setWidth_of_le _ (by omega), BitVec.setWidth_eq]
  | phase => rw [encode_phase h, decode_phase_eq_ok_iff]; exact ⟨h, rfl⟩

/-- Settles O1: the encoder's word decodes back in each format, and each word or byte is the row of its own code. -/
theorem decodeOfEncode : Obligations.DecodeOfEncode :=
  ⟨fun i _ => ⟨wordWf_encode i, decode_encode i⟩, fun _ _ => decode_ctrl_eq_ok_iff (.inl rfl),
    fun _ _ => decode_ctrl_eq_ok_iff (.inr rfl), fun _ _ => decode_phase_eq_ok_iff⟩

end Sys2Proof

namespace Sys2Proof.Machine

/-- A pending write of CTRL's command field runs the command of the word's bits 3:0 (rules R96, R98, R110). -/
theorem step_command {s : State} {rest : List Input} {width : Nat} {v : Word} {i : Instr} (hw : width = 64 ∨ width = 32)
    (hf : i.format = .ctrl) (hc : i.code = v.extractLsb' 0 4) :
    step { s with inputs := .access (.write s.cfg.regBase width v) :: rest } = exec i { s with inputs := rest } := by
  obtain ⟨hwhole, hlo, -⟩ := resolve_slot s.cfg .ctrl
  have run : ∀ n, n = 8 ∨ n = 4 →
      execWord .ctrl (bytesLE n v.toNat) { s with inputs := rest } = exec i { s with inputs := rest } := by
    intro n hn
    unfold execWord
    rw [(decode_ctrl_eq_ok_iff hn).2 ⟨hf, hc⟩]
  rw [step_input rfl]
  show writeAccess s.cfg.regBase width v { s with inputs := rest } = _
  unfold writeAccess
  rcases hw with rfl | rfl
  · rw [show s.cfg.resolve s.cfg.regBase 64 = _ from hwhole]
    exact run 8 (.inl rfl)
  · rw [show s.cfg.resolve s.cfg.regBase 32 = _ from hlo]
    exact run 4 (.inr rfl)

/-- Settles O3: both writes run the one command that their common bits 3:0 name. -/
theorem commandBitsAlone : Obligations.CommandBitsAlone := by
  intro s rest v v' hv
  obtain ⟨i, -, hf, hc⟩ := decodeCode_spec .ctrl (v.extractLsb' 0 4)
  have hc' := hc.trans hv
  rw [step_command (.inl rfl) hf hc, step_command (.inl rfl) hf hc', step_command (.inr rfl) hf hc']
  exact ⟨rfl, rfl⟩

end Sys2Proof.Machine
end

section
/-! The PHASE codes 8 to 15 (rule R97): each is refused, and no turn of a step names one as the next phase. -/

namespace Sys2Proof.Machine

/-- The micro-op of a PHASE code from 8 on has no meaning (rule R97). -/
theorem exec_reservedPhase {i : Instr} (hf : i.format = .phase) (hc : 8 ≤ i.code.toNat) (s : State) :
    exec i s = .refused .reservedPhase := by
  cases i with
  | phaseReserved8 | phaseReserved9 | phaseReservedA | phaseReservedB | phaseReservedC | phaseReservedD
  | phaseReservedE | phaseReservedF => rfl
  | idle | init | block | tail | lfold | xlane | fmix | combine => exact absurd hc (by decide)
  | nop | hash | abort | clear | reserved4 | reserved5 | reserved6 | reserved7 | reserved8 | reserved9 | reservedA
  | reservedB | reservedC | reservedD | reservedE | reservedF => cases hf

/-- A command keeps PHASE or names IDLE or INIT (rules R110 to R115). -/
theorem exec_command_phase {i : Instr} {s t : State} (hf : i.format = .ctrl) (hs : s.status.phase.toNat < 8)
    (h : exec i s = .next t) : t.status.phase.toNat < 8 := by
  rcases exec_command_cases hf h with rfl | ⟨-, rfl⟩ | ⟨-, e, -, rfl⟩ | ⟨-, rfl⟩ | ⟨-, -, -, rfl⟩
  · exact hs
  · simp
  · simp
  · exact hs
  · simp

/-- A micro-op's successor is one of the phases of rule R31. -/
theorem exec_microOp_phase {i : Instr} {s t : State} (hf : i.format = .phase) (hs : s.status.phase.toNat < 8)
    (h : exec i s = .next t) : t.status.phase.toNat < 8 := by
  cases i with
  | idle => cases h; exact hs
  | init => rw [execInit_phase h]; split <;> decide
  | block =>
    rcases execBlock_status h with ht | ht
    · rw [ht, Status.toPhase_phase]; split <;> decide
    · rw [ht, Status.error_phase]; decide
  | tail =>
    rcases execTail_status h with ht | ht
    · rw [ht, Status.toPhase_phase]; decide
    · rw [ht, Status.error_phase]; decide
  | lfold | xlane | fmix | combine => cases h; simp
  | phaseReserved8 | phaseReserved9 | phaseReservedA | phaseReservedB | phaseReservedC | phaseReservedD
  | phaseReservedE | phaseReservedF => cases h
  | nop | hash | abort | clear | reserved4 | reserved5 | reserved6 | reserved7 | reserved8 | reserved9 | reservedA
  | reservedB | reservedC | reservedD | reservedE | reservedF => cases hf

/-- Every turn keeps PHASE below 8 (rule R97). -/
theorem step_phase {s t : State} (hs : s.status.phase.toNat < 8) (h : step s = .next t) : t.status.phase.toNat < 8 := by
  rcases step_cases h with ⟨-, i, hf, -, he⟩ | ⟨-, -, -, r, part, -, -, rfl⟩ | ⟨-, -, -, i, -, -, hf, -, he⟩ |
    ⟨-, -, -, -, r, v, -, rfl⟩ | ⟨a, v, -, -, he⟩ | ⟨-, -, rfl⟩
  · exact exec_microOp_phase (s := s.turnTaken) hf hs he
  · exact hs
  · exact exec_command_phase (s := s.turnTaken) hf hs he
  · rw [(s.turnTaken.writeSlot_frame r v).2.1]; exact hs
  · rw [(storeByte_frame he).2.1]; exact hs
  · simp [Status.reset]

/-- Settles O20: the rows of the codes 8 to 15 are refused, so a running run's step in such a phase is, and `step_phase` says that no
step names one. -/
theorem reservedPhasesRefused : Obligations.ReservedPhasesRefused := by
  refine ⟨fun i hi s => ?_, fun s hm hb hp => ?_, fun s t => step_phase⟩
  · have rows : ∀ i ∈ [Instr.phaseReserved8, .phaseReserved9, .phaseReservedA, .phaseReservedB, .phaseReservedC,
        .phaseReservedD, .phaseReservedE, .phaseReservedF], i.format = .phase ∧ 8 ≤ i.code.toNat := by decide
    exact exec_reservedPhase (rows i hi).1 (rows i hi).2 s
  · obtain ⟨i, -, hf, hc⟩ := decodeCode_spec .phase s.status.phase
    rw [step_microOp hm hf hb hc]
    exact exec_reservedPhase hf (by rw [hc]; exact hp) _

end Sys2Proof.Machine
end

section
/-! The bits of the STATUS word (rules R29, R92), and the test of a result's validity on them (rule R100). -/

namespace Sys2Proof.Machine

@[simp] theorem flagWord_getLsbD (b : Bool) (k : Nat) : (flagWord b).getLsbD k = (b && decide (k = 0)) := by
  cases b with
  | false => simp [flagWord]
  | true => simp [flagWord, BitVec.getLsbD_one]

/-- Every bit of the STATUS word: the flags below bit 4, then ERRCODE's four, then PHASE's four and zeros (rule R92). -/
theorem Status.toWord_getLsbD (st : Status) (k : Nat) :
    st.toWord.getLsbD k =
      if k < 4 then st.busy && decide (k = 0) || st.done && decide (k = 1) || st.err && decide (k = 2)
      else if k < 8 then st.errcode.code.getLsbD (k - 4)
      else st.phase.getLsbD (k - 8) := by
  unfold Status.toWord
  simp only [BitVec.getLsbD_or, BitVec.getLsbD_shiftLeft, BitVec.getLsbD_setWidth, flagWord_getLsbD]
  by_cases h4 : k < 4
  · interval_cases k <;> simp
  · have h0 : k ≠ 0 ∧ k - 1 ≠ 0 ∧ k - 2 ≠ 0 := by omega
    by_cases h8 : k < 8
    · have h64 : k < 64 ∧ k - 4 < 64 := by omega
      simp [h0, h4, h8, h64]
    · have herr : st.errcode.code.getLsbD (k - 4) = false := BitVec.getLsbD_of_ge _ _ (by omega)
      cases hphase : st.phase.getLsbD (k - 8) with
      | false => simp [h0, h4, h8, herr]
      | true =>
        have hlt : k - 8 < 4 := BitVec.lt_of_getLsbD hphase
        have h64 : k < 64 ∧ k - 8 < 64 := by omega
        simp [h4, h8, h64]

/-- A field of a word is known by its bits. -/
theorem extractLsb'_eq_of_bits {v : Word} {o n : Nat} {x : BitVec n}
    (h : ∀ k, k < n → v.getLsbD (o + k) = x.getLsbD k) : v.extractLsb' o n = x := by
  refine BitVec.eq_of_getLsbD_eq fun k hk => ?_
  rw [BitVec.getLsbD_extractLsb', h k hk, decide_eq_true hk, Bool.true_and]

/-- Settles O32: each field's bits are those of `Status.toWord_getLsbD` at its places, and no bit of PHASE is left from bit 12 on. -/
theorem statusWordFields : Obligations.StatusWordFields := by
  intro st
  refine ⟨?_, ?_, ?_, ?_, extractLsb'_eq_of_bits fun k hk => ?_, extractLsb'_eq_of_bits fun k hk => ?_,
    extractLsb'_eq_of_bits fun k hk => ?_⟩
  · rw [st.toWord_getLsbD]; simp
  · rw [st.toWord_getLsbD]; simp
  · rw [st.toWord_getLsbD]; simp
  · rw [st.toWord_getLsbD]; simp
  · rw [st.toWord_getLsbD, if_neg (by omega), if_pos (by omega), Nat.add_sub_cancel_left]
  · rw [st.toWord_getLsbD, if_neg (by omega), if_neg (by omega), Nat.add_sub_cancel_left]
  · rw [st.toWord_getLsbD, if_neg (by omega), if_neg (by omega), BitVec.getLsbD_of_ge _ _ (by omega)]
    exact BitVec.getLsbD_zero.symm

/-- The mask 0x6 holds DONE's and ERR's bits (rules R92, R100). -/
theorem resultValid_eq_bits (v : Word) : resultValid v = (v.getLsbD 1 && !v.getLsbD 2) := by
  have hmask : v &&& 0x6 = (v &&& BitVec.twoPow 64 1) ||| (v &&& BitVec.twoPow 64 2) := by
    rw [← BitVec.and_or_distrib_left]
    rfl
  rw [resultValid, hmask, BitVec.and_twoPow, BitVec.and_twoPow]
  cases v.getLsbD 1 <;> cases v.getLsbD 2 <;> rfl

end Sys2Proof.Machine
end

section
/-! The lines of a host program (rules R99, R100). -/

namespace Sys2Proof.Machine

/-- Settles O57: a line's access is its slot's address, or four bytes on for the high half, and `resolve_slot` says what that reaches. -/
theorem hostLinesReachTheirSlots : Obligations.HostLinesReachTheirSlots := by
  intro c r v v32 t l
  obtain ⟨hwhole, hlo, hhi⟩ := resolve_slot c r
  exact ⟨rfl, rfl, hwhole, rfl, rfl, hlo, rfl, rfl, hhi, rfl, rfl⟩

/-- A pseudo-instruction of one 64-bit write to CTRL runs the command of the word it writes (rules R98, R100). -/
theorem Pseudo.expand_runs {p : Pseudo} {v : Word} {i : Instr} (hp : p.expand = [.wr64 .ctrl v]) (hf : i.format = .ctrl)
    (hc : i.code = v.extractLsb' 0 4) (s : State) (rest : List Input) :
    ∃ line a, p.expand = [line] ∧ line.busAccess s.cfg = some a ∧
      step { s with inputs := .access a :: rest } = exec i { s with inputs := rest } :=
  ⟨_, _, hp, rfl, step_command (.inl rfl) hf hc⟩

/-- Settles O58: the four commands are one write each, the other expansions are the table's lines, and the validity test reads DONE and
ERR. -/
theorem pseudoInstructionsExpand : Obligations.PseudoInstructionsExpand := by
  refine ⟨fun s rest p i hpi => ?_, fun _ _ => rfl, fun _ _ _ _ _ _ _ => rfl, fun st => ?_⟩
  · simp only [List.mem_cons, Prod.mk.injEq, List.not_mem_nil, or_false] at hpi
    rcases hpi with ⟨rfl, rfl⟩ | ⟨rfl, rfl⟩ | ⟨rfl, rfl⟩ | ⟨rfl, rfl⟩
    · exact Pseudo.expand_runs (v := 0x0) rfl rfl (by decide) s rest
    · exact Pseudo.expand_runs (v := 0x1) rfl rfl (by decide) s rest
    · exact Pseudo.expand_runs (v := 0x2) rfl rfl (by decide) s rest
    · exact Pseudo.expand_runs (v := 0x3) rfl rfl (by decide) s rest
  · obtain ⟨-, hdone, herr, -⟩ := statusWordFields st
    rw [resultValid_eq_bits, hdone, herr]

end Sys2Proof.Machine
end

section
/-! The host commands (rules R110 to R115): what each command does in a running run and outside one, and the STATUS words they leave. -/

namespace Sys2Proof.Machine

/-! ### The STATUS words of the commands -/

theorem Status.accepted_toWord (st : Status) : st.accepted.toWord = 0x101 := by
  unfold Status.accepted
  decide

/-- Error entry leaves ERR and the cause alone (rules R92, R236). -/
theorem Status.error_toWord (st : Status) (e : ErrCode) : (st.error e).toWord = 0x4 ||| e.code.setWidth 64 <<< 4 := by
  unfold Status.error
  cases e <;> decide

/-- An idle CLEAR leaves no bit of STATUS set (rules R30, R114). -/
theorem Status.Legal.cleared_toWord {st : Status} (h : st.Legal) (hb : st.busy = false) : st.cleared.toWord = 0 := by
  unfold Status.cleared
  rw [hb, h.idle hb]
  decide

/-! ### Each command by its own tests -/

section
variable {s : State}

theorem execHash_busy (hb : s.status.busy = true) : execHash s = .next s := if_pos hb

theorem execHash_invalid (hb : s.status.busy = false) (hr : s.regionInvalid = true) :
    execHash s = .next (s.reject .invalidInput) := by
  unfold execHash
  rw [if_neg (by simp [hb]), if_pos hr]

theorem execHash_accepted (hb : s.status.busy = false) (hr : s.regionInvalid = false)
    (hd : s.cfg.touchesDevice s.src.toNat s.len.toNat = false) : execHash s = .next s.startRun := by
  unfold execHash
  rw [if_neg (by simp [hb]), if_neg (by simp [hr]), if_neg (by simp [hd])]

theorem execAbort_busy (hb : s.status.busy = true) : execAbort s = .next (s.stopRun .aborted) := if_pos hb

theorem execAbort_idle (hb : s.status.busy = false) : execAbort s = .next s := if_neg (by simp [hb])

theorem execClear_busy (hb : s.status.busy = true) : execClear s = .next s := if_pos hb

theorem execClear_idle (hb : s.status.busy = false) : execClear s = .next s.clearError := if_neg (by simp [hb])

theorem reservedCommand_busy (hb : s.status.busy = true) : reservedCommand s = .next s := if_pos hb

theorem reservedCommand_idle (hb : s.status.busy = false) : reservedCommand s = .next (s.reject .illegalCmd) :=
  if_neg (by simp [hb])

end

/-- The reserved commands have one meaning (rule R115). -/
theorem exec_reservedCommand {i : Instr} (hf : i.format = .ctrl) (hc : 4 ≤ i.code.toNat) (s : State) :
    exec i s = reservedCommand s := by
  cases i with
  | reserved4 | reserved5 | reserved6 | reserved7 | reserved8 | reserved9 | reservedA | reservedB | reservedC
  | reservedD | reservedE | reservedF => rfl
  | nop | hash | abort | clear => exact absurd hc (by decide)
  | idle | init | block | tail | lfold | xlane | fmix | combine | phaseReserved8 | phaseReserved9 | phaseReservedA
  | phaseReservedB | phaseReservedC | phaseReservedD | phaseReservedE | phaseReservedF => cases hf

/-! ### The statements -/

/-- Settles O7: the three outcomes of HASH on BUSY and on its region check. -/
theorem hashCommand : Obligations.HashCommand := by
  refine ⟨fun s => execHash_busy, fun s hb h0 hlt => ?_, fun s hb hfit hd => ?_⟩
  · have hr : s.regionInvalid = true := State.regionInvalid_eq_true.2 ⟨h0, hlt⟩
    exact ⟨_, execHash_invalid hb hr, rfl, Status.error_toWord s.status .invalidInput⟩
  · have hr : s.regionInvalid = false := State.regionInvalid_eq_false.2 hfit
    exact ⟨_, execHash_accepted hb hr hd, rfl, Status.accepted_toWord s.status⟩

/-- Settles O11: the twelve rows are the commands of code 4 on, which share one meaning. -/
theorem reservedCommands : Obligations.ReservedCommands := by
  intro i hi
  obtain ⟨hf, hc⟩ : i.format = .ctrl ∧ 4 ≤ i.code.toNat := by revert i; decide
  refine ⟨fun s hb => ?_, fun s hb => ?_⟩ <;> rw [exec_reservedCommand hf hc]
  · exact reservedCommand_busy hb
  · exact ⟨_, reservedCommand_idle hb, rfl, Status.error_toWord s.status .illegalCmd⟩

/-- Settles O6: NOP has no effect, and the word 0 is its command. -/
theorem nopChangesNothing : Obligations.NopChangesNothing :=
  ⟨fun _ => rfl, fun _ _ => step_command (i := .nop) (.inl rfl) rfl (by decide)⟩

/-- Settles O9: a running run ends by error entry with ABORTED, which gives up the working registers. -/
theorem abortCommand : Obligations.AbortCommand :=
  ⟨fun s hb => ⟨_, execAbort_busy hb, Status.error_toWord s.status .aborted, rfl⟩, fun _ => execAbort_idle⟩

/-- Settles O10: an idle CLEAR is the return from an error, and rule R30 leaves no other bit of STATUS set. -/
theorem clearCommand : Obligations.ClearCommand :=
  ⟨fun _ => execClear_busy, fun _ => execClear_idle,
    fun _ hb hl => ⟨_, execClear_idle hb, hl.cleared_toWord hb⟩⟩

/-! ### A word placed for the next step -/

/-- A placed PHASE code is the one the engine's turn runs; IDLE's is placed as the phase of no run. -/
theorem State.placePhase_engineCode (s : State) (p : BitVec 4) : (s.placePhase p.toNat).engineCode = p := by
  unfold State.placePhase State.engineCode
  rw [BitVec.ofNat_toNat, BitVec.setWidth_eq]
  show (if p != 0 then p else 0) = p
  split
  case isTrue => rfl
  case isFalse h => exact (by simpa using h : p = 0).symm

theorem step_placePhase {i : Instr} (hf : i.format = .phase) (s : State) :
    step (s.placePhase i.code.toNat) =
      exec i { s with status := { s.status with busy := i.code != 0, phase := i.code } } := by
  have hcode : i.code = (s.placePhase i.code.toNat).turnTaken.engineCode := (s.placePhase_engineCode i.code).symm
  rw [step_engineMoves (.inr ⟨_, rfl⟩), engineTurn_eq _ hf hcode]
  unfold State.placePhase
  rw [BitVec.ofNat_toNat, BitVec.setWidth_eq]
  rfl

theorem step_placeCommand {i : Instr} (hf : i.format = .ctrl) (s : State) :
    step (s.placeCommand 64 i.code.toNat) = exec i s := by
  refine step_command (.inl rfl) hf ?_
  rw [BitVec.ofNat_toNat, ← BitVec.setWidth_eq_extractLsb' (by omega), BitVec.setWidth_setWidth_of_le _ (by omega),
    BitVec.setWidth_eq]

/-- Settles O5: the encoder's length, 64 bits or 8, selects the placement of the row's own format. -/
theorem placedWordRunsNext : Obligations.PlacedWordRunsNext := by
  intro s i
  cases hf : i.format with
  | ctrl =>
    rw [encode_ctrl hf, bytesLE_length]
    exact step_placeCommand hf s
  | phase =>
    rw [encode_phase hf]
    exact step_placePhase hf s

end Sys2Proof.Machine
end

section
/-! The register window's slots (rules R22, R38, R39, R61, R62, R116, R117): 64-bit reads, and the writes of every slot that are no
command. -/

namespace Sys2Proof.Machine

/-- Settles O33: each slot's offset resolves to the whole slot, and the read returns its value. -/
theorem wholeSlotReads : Obligations.WholeSlotReads := by
  intro s rest
  have reads (r : Slot) := step_read (rest := rest) (resolve_slot s.cfg r).1
  exact ⟨reads .ctrl, reads .status, reads .seed, reads .len, reads .src, reads .result, reads .resultH2, reads .reserved⟩

/-! ### A slot write -/

/-- Which events are pending makes no difference to a slot write. -/
theorem State.writeSlot_setInputs (s : State) (rest : List Input) (r : Slot) (v : Word) :
    ({ s with inputs := rest } : State).writeSlot r v = { s.writeSlot r v with inputs := rest } := by
  cases r with
  | seed | len | src => unfold State.writeSlot; dsimp only; split <;> rfl
  | ctrl | status | result | resultH2 | reserved => rfl

/-- A pending write that is no command merges its data into the slot it reaches; CTRL's high half holds nothing (rules R23, R62,
R117). -/
theorem step_write {s : State} {addr width : Nat} {r : Slot} {part : Part} (hr : s.cfg.resolve addr width = some (r, part))
    (hc : r ≠ .ctrl ∨ part = .hi) (rest : List Input) (v : Word) :
    step { s with inputs := .access (.write addr width v) :: rest } =
      .next { s.writeSlot r (part.merge (s.readSlot r) v) with inputs := rest } := by
  rw [step_input rfl, ← State.writeSlot_setInputs]
  show writeAccess addr width v { s with inputs := rest } = _
  unfold writeAccess
  rw [hr]
  cases r with
  | ctrl =>
    obtain rfl := hc.resolve_left (· rfl)
    rfl
  | status | seed | len | src | result | resultH2 | reserved => rfl

section
variable {s t : State} {rest : List Input} {v : Word} {r : Slot}

theorem step_write_whole (hc : r ≠ .ctrl) (ht : s.writeSlot r v = t) :
    step { s with inputs := .access (.write (s.cfg.regBase + r.offset) 64 v) :: rest } = .next { t with inputs := rest } := by
  obtain ⟨hwhole, -, -⟩ := resolve_slot s.cfg r
  rw [← ht]
  exact step_write hwhole (.inl hc) rest v

theorem step_write_lo (hc : r ≠ .ctrl)
    (ht : s.writeSlot r ((s.readSlot r).extractLsb' 32 32 ++ v.extractLsb' 0 32) = t) :
    step { s with inputs := .access (.write (s.cfg.regBase + r.offset) 32 v) :: rest } = .next { t with inputs := rest } := by
  obtain ⟨-, hlo, -⟩ := resolve_slot s.cfg r
  rw [← ht]
  exact step_write hlo (.inl hc) rest v

theorem step_write_hi (ht : s.writeSlot r (v.extractLsb' 0 32 ++ (s.readSlot r).extractLsb' 0 32) = t) :
    step { s with inputs := .access (.write (s.cfg.regBase + r.offset + 4) 32 v) :: rest } =
      .next { t with inputs := rest } := by
  obtain ⟨-, -, hhi⟩ := resolve_slot s.cfg r
  rw [← ht]
  exact step_write hhi (.inr rfl) rest v

end

/-! ### What an idle write replaces -/

section
variable {s : State}

theorem State.writeSlot_seed (hb : s.status.busy = false) (v : Word) :
    s.writeSlot .seed v = { s with seed := v.extractLsb' 0 32 } := if_neg (by simp [hb])

theorem State.writeSlot_len (hb : s.status.busy = false) (v : Word) : s.writeSlot .len v = { s with len := v } :=
  if_neg (by simp [hb])

theorem State.writeSlot_src (hb : s.status.busy = false) (v : Word) : s.writeSlot .src v = { s with src := v } :=
  if_neg (by simp [hb])

/-- A write of SEED's low half writes the seed (rules R32, R62). -/
theorem State.writeSlot_seed_low (hb : s.status.busy = false) (hi lo : BitVec 32) :
    s.writeSlot .seed (hi ++ lo) = { s with seed := lo } := by
  rw [State.writeSlot_seed hb, ← BitVec.setWidth_eq_extractLsb' (by omega), BitVec.setWidth_append_eq_right]

/-- A write of SEED's high half writes back the seed it reads (rules R32, R62). -/
theorem State.writeSlot_seed_high (s : State) (hi : BitVec 32) :
    s.writeSlot .seed (hi ++ (s.readSlot .seed).extractLsb' 0 32) = s := by
  cases hb : s.status.busy with
  | true => exact State.writeSlot_busy hb _ _
  | false =>
    have hseed : (s.readSlot .seed).extractLsb' 0 32 = s.seed := by
      rw [← BitVec.setWidth_eq_extractLsb' (by omega)]
      exact (BitVec.setWidth_setWidth_of_le _ (by omega)).trans (BitVec.setWidth_eq _)
    rw [hseed, State.writeSlot_seed_low hb]

end

/-- Settles O35: each write by the slot and half it reaches; a write of a slot that holds no operand, and any write during a run, is
dropped. -/
theorem registerWrites : Obligations.RegisterWrites := by
  intro s rest v
  refine ⟨fun hb => ?_, fun hb => ?_, ?_⟩
  · exact ⟨step_write_whole (r := .seed) nofun (State.writeSlot_seed hb v),
      step_write_whole (r := .len) nofun (State.writeSlot_len hb v),
      step_write_whole (r := .src) nofun (State.writeSlot_src hb v),
      step_write_lo (r := .seed) nofun (State.writeSlot_seed_low hb _ _),
      step_write_lo (r := .len) nofun (State.writeSlot_len hb _), step_write_hi (r := .len) (State.writeSlot_len hb _),
      step_write_lo (r := .src) nofun (State.writeSlot_src hb _), step_write_hi (r := .src) (State.writeSlot_src hb _)⟩
  · have dropped (r : Slot) (v : Word) : s.writeSlot r v = s := State.writeSlot_busy hb r v
    exact ⟨step_write_whole (r := .seed) nofun (dropped _ _), step_write_whole (r := .len) nofun (dropped _ _),
      step_write_whole (r := .src) nofun (dropped _ _), step_write_lo (r := .seed) nofun (dropped _ _),
      step_write_lo (r := .len) nofun (dropped _ _), step_write_hi (r := .len) (dropped _ _),
      step_write_lo (r := .src) nofun (dropped _ _), step_write_hi (r := .src) (dropped _ _)⟩
  · exact ⟨step_write_whole (r := .status) nofun rfl, step_write_whole (r := .result) nofun rfl,
      step_write_whole (r := .resultH2) nofun rfl, step_write_whole (r := .reserved) nofun rfl,
      step_write_hi (r := .ctrl) rfl, step_write_hi (r := .seed) (State.writeSlot_seed_high s _),
      step_write_lo (r := .status) nofun rfl, step_write_hi (r := .status) rfl,
      step_write_lo (r := .result) nofun rfl, step_write_hi (r := .result) rfl,
      step_write_lo (r := .resultH2) nofun rfl, step_write_hi (r := .resultH2) rfl,
      step_write_lo (r := .reserved) nofun rfl, step_write_hi (r := .reserved) rfl⟩

end Sys2Proof.Machine
end

section
/-! The units of the datapath and the functions built from them (rules R144 to R153): each unit as the library's operation, which
of them are bijections, and the two readings of the tail's second-lane mix (rule R155). -/

namespace Sys2Proof.Machine

/-! ### The units -/

theorem toNat_add64 (a b : Word) : (add64 a b).toNat = (a.toNat + b.toNat) % 2 ^ 64 := BitVec.toNat_add a b

theorem toNat_mul64 (a b : Word) : (mul64 a b).toNat = (a.toNat * b.toNat) % 2 ^ 64 := BitVec.toNat_mul a b

theorem getLsbD_xor64 (a b : Word) (i : Nat) : (xor64 a b).getLsbD i = (a.getLsbD i != b.getLsbD i) := BitVec.getLsbD_xor

/-- Settles O21: each unit is the library's operation. -/
theorem unitsAddMulXor : Obligations.UnitsAddMulXor :=
  fun a b => ⟨fun i _ => getLsbD_xor64 a b i, toNat_add64 a b, toNat_mul64 a b⟩

theorem getLsbD_shl64 (x : Word) (n : Nat) {i : Nat} (hi : i < 64) :
    (shl64 x n).getLsbD i = (decide (n ≤ i) && x.getLsbD (i - n)) := by
  rw [shl64, BitVec.getLsbD_shiftLeft, decide_eq_true hi, Bool.true_and, ← decide_not, decide_eq_decide.2 Nat.not_lt]

/-- The right shift is logical: above bit 63 there are zeros. -/
theorem getLsbD_shr64 (x : Word) (n i : Nat) :
    (shr64 x n).getLsbD i = (decide (i + n < 64) && x.getLsbD (i + n)) := by
  rw [shr64, BitVec.getLsbD_ushiftRight, Nat.add_comm]
  by_cases h : i + n < 64
  · simp [h]
  · simp [h, BitVec.getLsbD_of_ge x (i + n) (by omega)]

/-- Settles O22: the bits of both shifts, and amounts from the width on. -/
theorem unitsShift : Obligations.UnitsShift :=
  fun x n => ⟨fun _ hi => getLsbD_shl64 x n hi, fun i _ => getLsbD_shr64 x n i,
    fun hn => ⟨BitVec.shiftLeft_eq_zero hn, BitVec.ushiftRight_eq_zero hn⟩⟩

/-- Below the amount a bit comes round from the top, from the amount on it moves up. -/
theorem getLsbD_rotl64 (x : Word) {r i : Nat} (hr : r < 64) (hi : i < 64) :
    (rotl64 x r).getLsbD i = x.getLsbD ((i + (64 - r)) % 64) := by
  rw [rotl64, BitVec.getLsbD_or, getLsbD_shl64 x r hi, getLsbD_shr64]
  by_cases h : r ≤ i
  · have hmod : (i + (64 - r)) % 64 = i - r := by omega
    have hpast : ¬ i + (64 - r) < 64 := by omega
    simp [h, hmod, hpast]
  · have hbelow : i + (64 - r) < 64 := by omega
    simp [h, hbelow, Nat.mod_eq_of_lt hbelow]

/-- Settles O23: the bits that move up and the bits that come round. -/
theorem unitsRotate : Obligations.UnitsRotate := fun x _ _ hr hi => getLsbD_rotl64 x hr hi

theorem rotl64_eq_rotateLeft (x : Word) {r : Nat} (hr : r < 64) : rotl64 x r = x.rotateLeft r :=
  (BitVec.rotateLeft_eq_rotateLeftAux_of_lt hr).symm

/-! ### The units that are bijections -/

/-- A rotation is undone by the rotation by what is left to 64. -/
theorem rotl64_rotl64_sub (x : Word) {r : Nat} (h0 : 0 < r) (hr : r < 64) : rotl64 (rotl64 x r) (64 - r) = x := by
  refine BitVec.eq_of_getLsbD_eq fun i hi => ?_
  rw [getLsbD_rotl64 _ (by omega) hi, getLsbD_rotl64 _ hr (Nat.mod_lt _ (by decide))]
  congr 1
  omega

theorem rotl64_bijective {r : Nat} (h0 : 0 < r) (hr : r < 64) : Function.Bijective (rotl64 · r) :=
  Finite.injective_iff_bijective.1
    (Function.LeftInverse.injective (g := (rotl64 · (64 - r))) fun x => rotl64_rotl64_sub x h0 hr)

/-- Multiplication by a constant with an inverse modulo `2^64` is a bijection. -/
theorem mul64_bijective {c : Word} (inv : Word) (h : mul64 c inv = 1) : Function.Bijective (mul64 · c) :=
  IsUnit.isUnit_iff_mulRight_bijective.1 (IsUnit.of_mul_eq_one inv h)

theorem mul64_c1_bijective : Function.Bijective (mul64 · c1) := mul64_bijective 0xA98409E882CE4D7D (by decide)

theorem mul64_c2_bijective : Function.Bijective (mul64 · c2) := mul64_bijective 0xA81E14EDD9DE2C7F (by decide)

theorem mul64_fmix1_bijective : Function.Bijective (mul64 · fmix1) := mul64_bijective 0x4F74430C22A54005 (by decide)

theorem mul64_fmix2_bijective : Function.Bijective (mul64 · fmix2) := mul64_bijective 0x9CB4B2F8129337DB (by decide)

/-- The second shift step cancels the first: two shifts by 33 leave no bit. -/
theorem xorShift33_involutive : Function.Involutive xorShift33 := by
  intro x
  have hgone : x >>> 33 >>> 33 = 0#64 := by rw [← BitVec.shiftRight_add]; exact BitVec.ushiftRight_eq_zero (by decide)
  calc xorShift33 (xorShift33 x) = x ^^^ x >>> 33 ^^^ (x ^^^ x >>> 33) >>> 33 := rfl
    _ = x ^^^ x >>> 33 ^^^ x >>> 33 := by rw [BitVec.ushiftRight_xor_distrib, hgone, BitVec.xor_zero]
    _ = x := by rw [BitVec.xor_assoc, BitVec.xor_self, BitVec.xor_zero]

/-! ### The key mixes and the block rounds -/

theorem mixK1_eq (k : Word) : mixK1 k = (k * 0x87C37B91114253D5).rotateLeft 31 * 0x4CF5AD432745937F := by
  rw [mixK1, rotl64_eq_rotateLeft _ (by decide)]
  rfl

theorem mixK2_eq (k : Word) : mixK2 k = (k * 0x4CF5AD432745937F).rotateLeft 33 * 0x87C37B91114253D5 := by
  rw [mixK2, rotl64_eq_rotateLeft _ (by decide)]
  rfl

theorem mixK1_bijective : Function.Bijective mixK1 :=
  mul64_c2_bijective.comp ((rotl64_bijective (by decide) (by decide)).comp mul64_c1_bijective)

theorem mixK2_bijective : Function.Bijective mixK2 :=
  mul64_c1_bijective.comp ((rotl64_bijective (by decide) (by decide)).comp mul64_c2_bijective)

/-- Settles O24: each mix is two multiplications by units with a rotation between them. -/
theorem keyMixesBijective : Obligations.KeyMixesBijective :=
  ⟨mixK1_eq, by decide, mixK1_bijective, mixK2_eq, by decide, mixK2_bijective⟩

theorem roundH1_eq (h1 h2 k1 : Word) :
    roundH1 h1 h2 k1 = ((h1 ^^^ mixK1 k1).rotateLeft 27 + h2) * 5 + 0x52DCE729 := by
  rw [roundH1, rotl64_eq_rotateLeft _ (by decide)]
  rfl

theorem roundH2_eq (h2 h1n k2 : Word) :
    roundH2 h2 h1n k2 = ((h2 ^^^ mixK2 k2).rotateLeft 31 + h1n) * 5 + 0x38495AB5 := by
  rw [roundH2, rotl64_eq_rotateLeft _ (by decide)]
  rfl

/-- Settles O25: the rounds' rotation is the library's, their other units unfold. -/
theorem blockRounds : Obligations.BlockRounds := ⟨roundH1_eq, roundH2_eq⟩

/-! ### The finalization mix -/

theorem fmix_bijective : Function.Bijective fmix :=
  have hshift := xorShift33_involutive.bijective
  hshift.comp (mul64_fmix2_bijective.comp (hshift.comp (mul64_fmix1_bijective.comp hshift)))

/-- Settles O26: shift steps that undo themselves, with multiplications by units between them. -/
theorem fmixBijective : Obligations.FmixBijective :=
  ⟨fun _ => rfl, by decide, fmix_bijective, fun x => ⟨rfl, xorShift33_involutive x⟩⟩

/-! ### The two readings of the tail -/

/-- Up to remainder 8 there is no second tail key to mix (rules R155, R216). -/
theorem digestTail_congr_mix {bytes : List Byte} (hr : bytes.length % 16 ≤ 8) (mix mix' : TailMix) (h : Lanes) :
    digestTail mix bytes h = digestTail mix' bytes h := by
  have h9 : ¬ 9 ≤ bytes.length % 16 := by omega
  simp only [digestTail, if_neg h9]

/-- Settles O28: the reading enters the digest by the tail alone. -/
theorem tailReadingsAgreeBelowNine : Obligations.TailReadingsAgreeBelowNine := by
  refine ⟨fun _ => rfl, fun bytes seed hr => ?_⟩
  rw [hash128, hash128With, hash128With, digestTail_congr_mix hr .mixK2 tailMixOfThisHardware]

end Sys2Proof.Machine
end

section
/-! The sequencer's first micro-ops (rules R170 to R173): INIT's and BLOCK's next states, and a step as the instruction its word
decodes to. -/

namespace Sys2Proof.Machine

/-! ### BLOCK -/

section
variable {s : State} (hs : s.blockAddress s.w.blk + 16 ≤ s.cfg.sourceSize)
  (hd : s.cfg.touchesDevice (s.blockAddress s.w.blk) 16 = false)
include hs hd

/-- BLOCK on an answered read is one block round on the 16 bytes (rules R172, R173). -/
theorem execBlock_ok (hp : s.nextAnswer = .ok) :
    execBlock s = .next ((s.afterRequest (s.blockAddress s.w.blk) 16).blockRound
      (leValue (s.portBytes (s.blockAddress s.w.blk) 16))) := by
  unfold execBlock blockLoad
  rw [memRead_ok (by decide) hs hd hp]

/-- BLOCK on a failed read is error entry with BUS_ERROR (rules R173, R232). -/
theorem execBlock_err (hp : s.nextAnswer = .err) :
    execBlock s = .next ((s.afterRequest (s.blockAddress s.w.blk) 16).stopRun .busError) := by
  unfold execBlock blockLoad
  rw [memRead_err (by decide) hs hd hp]

end

/-- A block round's keys are `LE64` of the two halves of the block's bytes (rules R11, R172). -/
theorem State.blockRound_keys (s : State) {bs : List Byte} (hb : bs.length ≤ 16) :
    (s.blockRound (leValue bs)).w.k1 = le64 (bs.take 8) ∧ (s.blockRound (leValue bs)).w.k2 = le64 (bs.drop 8) := by
  rw [State.blockRound_w_k1, State.blockRound_w_k2, leValue_low_half _ hb, leValue_high_half _ hb]
  exact ⟨rfl, rfl⟩

/-- A block round's lanes are the rounds on its own keys, lane 2's with the new lane 1 (rules R151, R152, R173). -/
theorem State.blockRound_lanes_of_keys (s : State) (v : BitVec 128) :
    (s.blockRound v).w.h1 = roundH1 s.w.h1 s.w.h2 (s.blockRound v).w.k1 ∧
    (s.blockRound v).w.h2 = roundH2 s.w.h2 (s.blockRound v).w.h1 (s.blockRound v).w.k2 := by
  rw [State.blockRound_w_h2, State.blockRound_w_h1, State.blockRound_w_k1, State.blockRound_w_k2]
  exact ⟨rfl, rfl⟩

/-- Settles O14: an answered read is followed by one block round on its bytes, a failed one by error entry. -/
theorem blockMicroOp : Obligations.BlockMicroOp := by
  intro s hs hd
  refine ⟨fun hp => ⟨_, execBlock_ok hs hd hp, ?_⟩, fun hp => ⟨_, execBlock_err hs hd hp, ?_, rfl⟩⟩
  · obtain ⟨hk1, hk2⟩ := (s.afterRequest (s.blockAddress s.w.blk) 16).blockRound_keys
      (bs := s.portBytes (s.blockAddress s.w.blk) 16) (State.portBytes_length ..).le
    obtain ⟨hh1, hh2⟩ := (s.afterRequest (s.blockAddress s.w.blk) 16).blockRound_lanes_of_keys
      (leValue (s.portBytes (s.blockAddress s.w.blk) 16))
    exact ⟨hk1, hk2, hh1, hh2, State.blockRound_w_blk .., State.blockRound_w_nb .., State.blockRound_eq_goTo ..⟩
  · exact Status.error_busError_toWord s.status

/-! ### IDLE and INIT -/

/-- Settles O12: IDLE's meaning is the state itself. -/
theorem idleKeepsEverything : Obligations.IdleKeepsEverything := fun _ => rfl

theorem State.blockCount_pos (s : State) : 0 < s.blockCount.toNat ↔ 16 ≤ s.len.toNat := by
  rw [State.blockCount_toNat]
  omega

/-- Settles O13: there is a whole block exactly when LEN is 16 or more. -/
theorem initMicroOp : Obligations.InitMicroOp := by
  intro s
  show execInit s = _
  unfold execInit
  simp only [s.blockCount_pos]
  rfl

/-! ### The decoded instruction -/

/-- A pending write of CTRL's command field runs the command its word decodes to (rule R110). -/
theorem step_decodedCommand {s : State} {rest : List Input} {width n : Nat} {v : Word} {i : Instr}
    (hw : width = 64 ∨ width = 32) (hn : n = 8 ∨ n = 4)
    (hs : s.inputs = .access (.write s.cfg.regBase width v) :: rest) (hi : decode .ctrl (bytesLE n v.toNat) = .ok i) :
    step s = exec i s.turnTaken := by
  obtain ⟨hf, hc⟩ := (decode_ctrl_eq_ok_iff hn).1 hi
  have h := step_command (s := s) (rest := rest) hw hf hc
  rw [← hs] at h
  unfold State.turnTaken
  rw [hs]
  exact h

/-- Settles O4: the engine's turn runs the row of its PHASE code, IDLE's outside a run, and a pending command write the row of its
word. -/
theorem stepRunsDecodedInstruction : Obligations.StepRunsDecodedInstruction := by
  refine ⟨fun s i hm hb hi => ?_, fun s hm hb => ?_, fun _ _ _ _ => step_decodedCommand (.inl rfl) (.inl rfl),
    fun _ _ _ _ => step_decodedCommand (.inr rfl) (.inr rfl)⟩
  · rw [decode_phase] at hi
    obtain ⟨hf, hc⟩ := decodeCode_eq_ok_iff.1 hi
    exact step_microOp hm hf hb hc
  · have hcode : s.turnTaken.engineCode = 0 := if_neg (by simp [hb])
    rw [step_engineMoves hm]
    exact engineTurn_eq _ rfl hcode.symm

end Sys2Proof.Machine
end

section
/-! The tail-byte processor (rules R190 to R194): TAIL's next states, the keys it forms and the lanes it folds them into. -/

namespace Sys2Proof.Machine

/-! ### The tail's read -/

/-- The state after the read of the tail bytes: no request is made when there is no tail byte (rules R119, R192). -/
def State.afterTailRead (s : State) : State :=
  { s with
    portAnswers := if s.remainder = 0 then s.portAnswers else s.portAnswers.tail
    request := if s.remainder = 0 then s.request else some { addr := s.tailAddress, count := s.remainder }
    draws := s.draws + s.remainder }

theorem State.afterTailRead_empty {s : State} (h : s.remainder = 0) : s.afterTailRead = s := by
  simp only [State.afterTailRead, h, if_true, Nat.add_zero]

theorem State.afterTailRead_of_pos {s : State} (h : 0 < s.remainder) :
    s.afterTailRead = s.afterRequest s.tailAddress s.remainder := by
  simp only [State.afterTailRead, if_neg h.ne', State.afterRequest]

/-- The tail bytes the port returns: as many as the remainder (rules R190, R191). -/
def State.tailBytes (s : State) : List Byte := s.portBytes s.tailAddress s.remainder

@[simp] theorem State.tailBytes_length (s : State) : s.tailBytes.length = s.remainder := State.portBytes_length ..

theorem State.tailBytes_empty {s : State} (h : s.remainder = 0) : s.tailBytes = [] :=
  List.eq_nil_of_length_eq_zero (s.tailBytes_length.trans h)

theorem State.tailBytes_getD (s : State) (j : Nat) :
    s.tailBytes.getD j 0 = if j < s.remainder then s.portByte (s.draws + j) (s.tailAddress + j) else 0 := by
  split
  case isTrue h => rw [List.getD_eq_getElem _ _ (by simpa using h)]; exact State.portBytes_getElem ..
  case isFalse h => exact List.getD_eq_default _ _ (by simpa using h)

theorem State.tailBytes_length_le (s : State) : s.tailBytes.length ≤ 16 := by
  rw [s.tailBytes_length, State.remainder_eq]
  omega

theorem State.tailBytes_drop_empty {s : State} (h : ¬ 9 ≤ s.remainder) : s.tailBytes.drop 8 = [] :=
  List.drop_of_length_le (by rw [s.tailBytes_length]; omega)

/-! ### TAIL's next states -/

/-- The state after a TAIL that does not fail: the tail bytes read and folded (rule R192). -/
def State.afterTail (s : State) : State := s.afterTailRead.tailFold s.remainder (leValue s.tailBytes)

theorem State.afterTail_empty {s : State} (h : s.remainder = 0) : s.afterTail = s.tailFold 0 0 := by
  rw [State.afterTail, State.afterTailRead_empty h, State.tailBytes_empty h, h]
  rfl

theorem State.afterTail_of_pos {s : State} (h : 0 < s.remainder) :
    s.afterTail = (s.afterRequest s.tailAddress s.remainder).tailFold s.remainder
      (leValue (s.portBytes s.tailAddress s.remainder)) := by
  rw [State.afterTail, State.afterTailRead_of_pos h]
  rfl

/-- TAIL with no tail byte, or on an answered read, folds the tail bytes (rules R119, R192). -/
theorem execTail_ok {s : State}
    (hr : 0 < s.remainder → s.tailAddress + s.remainder ≤ s.cfg.sourceSize ∧
      s.cfg.touchesDevice s.tailAddress s.remainder = false)
    (hp : s.remainder = 0 ∨ s.nextAnswer = .ok) :
    execTail s = .next s.afterTail := by
  unfold execTail
  rcases Nat.eq_zero_or_pos s.remainder with h0 | h0
  · rw [State.afterTail_empty h0, h0, memRead_zero]
  · obtain ⟨hs, hd⟩ := hr h0
    rw [State.afterTail_of_pos h0, memRead_ok h0 hs hd (hp.resolve_left h0.ne')]

/-- TAIL on a failed read is error entry with BUS_ERROR (rules R192, R232). -/
theorem execTail_err {s : State} (h0 : 0 < s.remainder) (hs : s.tailAddress + s.remainder ≤ s.cfg.sourceSize)
    (hd : s.cfg.touchesDevice s.tailAddress s.remainder = false) (hp : s.nextAnswer = .err) :
    execTail s = .next ((s.afterRequest s.tailAddress s.remainder).stopRun .busError) := by
  unfold execTail
  rw [memRead_err h0 hs hd hp]

/-- A TAIL that leaves the run going has folded the tail bytes: a failed read would have cleared BUSY (rules R192, R236). -/
theorem execTail_of_busy {s t : State} (h : execTail s = .next t) (hb : t.status.busy = true) :
    t = s.afterTail := by
  rcases execTail_cases h with ⟨h0, rfl⟩ | ⟨h0, -, -, ⟨-, rfl⟩ | ⟨-, rfl⟩⟩
  · exact (State.afterTail_empty h0).symm
  · exact (State.afterTail_of_pos h0).symm
  · exact absurd hb Bool.false_ne_true

/-! ### The keys and the lanes -/

/-- The first key is `LE64` of the first eight tail bytes (rules R11, R191). -/
theorem State.afterTail_k1 (s : State) : s.afterTail.w.k1 = le64 (s.tailBytes.take 8) := by
  rw [State.afterTail, State.tailFold_w_k1, leValue_low_half _ s.tailBytes_length_le]

/-- The second key is `LE64` of the tail bytes after the eighth, of which there are none up to remainder 8 (rules R11, R191). -/
theorem State.afterTail_k2 (s : State) : s.afterTail.w.k2 = le64 (s.tailBytes.drop 8) := by
  rw [State.afterTail, State.tailFold_w_k2, leValue_high_half _ s.tailBytes_length_le]
  refine ite_eq_left_iff.2 fun h9 => ?_
  rw [State.tailBytes_drop_empty h9]
  rfl

/-- Lane 1 takes the mix of the first key from the first tail byte on (rule R192). -/
theorem State.afterTail_h1 (s : State) :
    s.afterTail.w.h1 = if 1 ≤ s.remainder then s.w.h1 ^^^ mixK1 s.afterTail.w.k1 else s.w.h1 := by
  rw [State.afterTail, State.tailFold_w_h1, State.tailFold_w_k1]
  rfl

/-- Lane 2 takes the mix of the second key from the ninth tail byte on (rule R192). -/
theorem State.afterTail_h2 (s : State) :
    s.afterTail.w.h2 = if 9 ≤ s.remainder then s.w.h2 ^^^ tailK2Mix s.afterTail.w.k2 else s.w.h2 := by
  rw [State.afterTail, State.tailFold_w_h2, State.tailFold_w_k2]
  rfl

theorem mixK1_zero : mixK1 0 = 0 := by decide

theorem tailK2Mix_zero : tailK2Mix 0 = 0 := mixK1_zero

/-- A key that is 0 unless it is folded folds to nothing, so the condition on the fold makes no difference (rule R194). -/
theorem xor_mix_of_key_zero {mix : Word → Word} (hmix : mix 0 = 0) {p : Prop} [Decidable p] {k : Word}
    (hk : ¬ p → k = 0) (h : Word) : (if p then h ^^^ mix k else h) = h ^^^ mix k := by
  refine ite_eq_left_iff.2 fun hp => ?_
  rw [hk hp, hmix]
  exact BitVec.xor_zero.symm

/-! ### The statements -/

/-- Settles O15: TAIL folds the bytes of its read, whose two halves are the keys, or enters the error of a failed read. -/
theorem tailMicroOp : Obligations.TailMicroOp := by
  intro s
  rw [← s.remainder_eq]
  intro hr
  refine ⟨fun hp => ⟨_, execTail_ok hr hp, ?_⟩, fun h0 hp => ⟨_, execTail_err h0 (hr h0).1 (hr h0).2 hp, ?_, rfl⟩⟩
  · exact ⟨s.afterTail_k1, s.afterTail_k2, s.afterTail_h1, s.afterTail_h2, State.tailFold_w_nb .., State.tailFold_w_blk ..,
      State.tailFold_eq_goTo ..⟩
  · exact Status.error_busError_toWord s.status

/-- Settles O30: each byte of a key is a byte of `LE64`'s list, the tail bytes up to the eighth or those after it. -/
theorem tailBytePlacement : Obligations.TailBytePlacement := by
  intro s t _ h hb
  obtain rfl := execTail_of_busy h hb
  rw [s.afterTail_k1, s.afterTail_k2, ← s.remainder_eq]
  refine ⟨fun j hj => ?_, fun j hj => ?_⟩
  · calc (le64 (s.tailBytes.take 8)).extractLsb' (8 * j) 8
        = (s.tailBytes.take 8).getD j 0 := le64_byte _ (List.length_take_le ..) j
      _ = s.tailBytes.getD j 0 := by simp [hj]
      _ = _ := s.tailBytes_getD j
  · have hlen : (s.tailBytes.drop 8).length ≤ 8 := by
      rw [List.length_drop]
      exact Nat.sub_le_sub_right s.tailBytes_length_le 8
    calc (le64 (s.tailBytes.drop 8)).extractLsb' (8 * j) 8
        = (s.tailBytes.drop 8).getD j 0 := le64_byte _ hlen j
      _ = s.tailBytes.getD (j + 8) 0 := by simp [Nat.add_comm]
      _ = _ := s.tailBytes_getD (j + 8)

/-- Settles O31: a key without tail bytes is 0, and so is its mix. -/
theorem tailFoldsUnconditional : Obligations.TailFoldsUnconditional := by
  intro s t _ h hb
  obtain rfl := execTail_of_busy h hb
  have hz1 (h1 : ¬ 1 ≤ s.remainder) : s.afterTail.w.k1 = 0 := by
    rw [s.afterTail_k1, State.tailBytes_empty (by omega)]
    rfl
  have hz2 (h9 : ¬ 9 ≤ s.remainder) : s.afterTail.w.k2 = 0 := by
    rw [s.afterTail_k2, State.tailBytes_drop_empty h9]
    rfl
  exact ⟨s.afterTail_h1.trans (xor_mix_of_key_zero mixK1_zero hz1 _),
    s.afterTail_h2.trans (xor_mix_of_key_zero tailK2Mix_zero hz2 _)⟩

end Sys2Proof.Machine
end

section
/-! The finalization mix pipeline (rules R210 to R213): the next state of each of its micro-ops. -/

namespace Sys2Proof.Machine

/-- The second addition takes the new lane 1, so lane 2 is counted twice (rule R211). -/
theorem crossAdd_eq (h1 h2 : Word) : crossAdd h1 h2 = (h1 + h2, h1 + 2 * h2) :=
  Prod.ext rfl (show h2 + (h1 + h2) = h1 + 2 * h2 by ring)

/-- Settles O16: LFOLD's meaning with its units written out. -/
theorem lfoldMicroOp : Obligations.LfoldMicroOp := fun _ => rfl

/-- Settles O17: XLANE's cross addition in the form with twice lane 2. -/
theorem xlaneMicroOp : Obligations.XlaneMicroOp := by
  intro s
  show execXlane s = _
  unfold execXlane
  rw [crossAdd_eq]
  rfl

/-- Settles O18: FMIX's meaning is `fmix` on each lane. -/
theorem fmixMicroOp : Obligations.FmixMicroOp := fun _ => rfl

/-- Settles O19: COMBINE's meaning with its cross addition written out. -/
theorem combineMicroOp : Obligations.CombineMicroOp := fun _ => rfl

end Sys2Proof.Machine
end

section
/-! The lanes of a run in which no byte of the region was written (rule R217): such a run has one choice of its bytes, the memory's, so
what holds of some choice (rule R77) holds of the region's bytes. -/

namespace Sys2Proof.Machine

/-- With no byte of the region written during the run the memory's bytes are the only choice (rules R75, R77). -/
theorem State.IsChoice.eq_regionBytes {s : State} {bytes : List Byte} (h : s.IsChoice bytes) (ht : s.touched = []) :
    bytes = s.regionBytes := by
  obtain ⟨hl, hr⟩ := h
  have hl' : s.regionBytes.length = s.len.toNat := s.isChoice_regionBytes.1
  refine List.ext_getElem (hl.trans hl'.symm) fun i h1 h2 => ?_
  calc bytes[i]
      = bytes.getD i 0 := (List.getD_eq_getElem _ _ h1).symm
    _ = s.mem.read (s.src.toNat + i) := hr i (hl ▸ h1) (by simp [ht])
    _ = s.regionBytes[i] := (Memory.bytes_getElem _ _ _ _ h2).symm

/-- Rule R217's lanes are rule R77's while no byte of the region was written. -/
theorem State.lanesMatch_iff {s : State} : s.LanesMatch ↔ (s.touched = [] → s.LanesFitAChoice) := by
  constructor
  · intro h ht hb hp
    exact ⟨s.regionBytes, s.isChoice_regionBytes, h hb ht hp⟩
  · intro h hb ht hp
    obtain ⟨bytes, hc, hl⟩ := h ht hb hp
    rw [State.expectedLanes, ← hc.eq_regionBytes ht]
    exact hl

/-- A run that goes on with no byte written has had none written before (rule R77). -/
theorem step_untouched {s t : State} (hb : s.status.busy = true) (h : step s = .next t) (hb' : t.status.busy = true)
    (ht : t.touched = []) : s.touched = [] := by
  refine List.eq_nil_iff_forall_not_mem.2 fun a ha => ?_
  have := step_touched hb h hb' ha
  simp [ht] at this

/-- Settles O52: a step keeps the lanes on a choice, and an unwritten region has one choice before the step and after it. -/
theorem stepKeepsDigestLanes : Obligations.StepKeepsDigestLanes := by
  intro s t hs hl h
  refine State.lanesMatch_iff.2 fun ht => ?_
  cases hb : s.status.busy with
  | false => exact step_lanesFitAChoice hs (.of_idle hb) h
  | true =>
    cases hb' : t.status.busy with
    | false => exact .of_idle hb'
    | true => exact step_lanesFitAChoice hs (State.lanesMatch_iff.1 hl (step_untouched hb h hb' ht)) h

/-- Settles O53: COMBINE delivers the digest of some choice of the bytes, and the memory's are the only one. -/
theorem combineDeliversDigest : Obligations.CombineDeliversDigest := by
  intro s hs hl hm hb hp ht
  obtain ⟨t, bytes, hstep, hst, hc, hres⟩ := stepKeepsLanesOnAChoice.2 s hs (State.lanesMatch_iff.1 hl ht) hm hb hp
  rw [hc.eq_regionBytes ht] at hres
  refine ⟨t, hstep, hst, hres, ?_, ?_⟩
  · rw [hash128Public, ← hres]
  · rw [← hres]
    rfl

end Sys2Proof.Machine
end

section
/-! A run left to itself (rules R215, R217, R218, R270): the engine steps it has left, and what each of them keeps. -/

namespace Sys2Proof.Machine

/-! ### The engine steps left -/

/-- The engine steps from here to the end of the run when the port answers every read: INIT, a BLOCK for each full block, then one step
for each of TAIL to COMBINE (rule R218). -/
def State.stepsLeft (s : State) : Nat :=
  if s.status.busy then
    if s.status.phase = 1 then s.len.toNat / 16 + 6
    else if s.status.phase = 2 then s.len.toNat / 16 - s.w.blk.toNat + 5
    else 8 - s.status.phase.toNat
  else 0

theorem State.stepsLeft_idle {s : State} (hb : s.status.busy = false) : s.stepsLeft = 0 := if_neg (by simp [hb])

section
variable {s : State} (hb : s.status.busy = true)
include hb

theorem State.stepsLeft_init (hp : s.status.phase = 1) : s.stepsLeft = s.len.toNat / 16 + 6 := by
  rw [State.stepsLeft, if_pos hb, if_pos hp]

theorem State.stepsLeft_block (hp : s.status.phase = 2) :
    s.stepsLeft = s.len.toNat / 16 - s.w.blk.toNat + 5 := by
  rw [State.stepsLeft, if_pos hb, if_neg (by rw [hp]; decide), if_pos hp]

theorem State.stepsLeft_later (hp : 3 ≤ s.status.phase.toNat) : s.stepsLeft = 8 - s.status.phase.toNat := by
  rw [State.stepsLeft, if_pos hb, if_neg (by rintro h; simp [h] at hp), if_neg (by rintro h; simp [h] at hp)]

end

/-- Every phase of a run has its steps left (rules R30, R218). -/
theorem State.Inv.stepsLeft_cases {s : State} (h : s.Inv) (hb : s.status.busy = true) :
    (s.status.phase = 1 ∧ s.stepsLeft = s.len.toNat / 16 + 6) ∨
    (s.status.phase = 2 ∧ s.stepsLeft = s.len.toNat / 16 - s.w.blk.toNat + 5 ∧
      16 * s.w.blk.toNat + 16 ≤ s.len.toNat) ∨
    (3 ≤ s.status.phase.toNat ∧ s.status.phase.toNat ≤ 7 ∧ s.stepsLeft = 8 - s.status.phase.toNat) := by
  obtain ⟨-, -, -, hlow, hhigh⟩ := h.status.running hb
  have hphase : s.status.phase = 1 ∨ s.status.phase = 2 ∨ 3 ≤ s.status.phase.toNat := by bv_omega
  rcases hphase with h1 | h2 | h3
  · exact .inl ⟨h1, State.stepsLeft_init hb h1⟩
  · exact .inr (.inl ⟨h2, State.stepsLeft_block hb h2, h.block_inside hb h2⟩)
  · exact .inr (.inr ⟨h3, hhigh, State.stepsLeft_later hb h3⟩)

theorem State.Inv.stepsLeft_le {s : State} (h : s.Inv) (hb : s.status.busy = true) :
    s.stepsLeft ≤ s.len.toNat / 16 + 6 := by
  rcases h.stepsLeft_cases hb with ⟨-, he⟩ | ⟨-, he, -⟩ | ⟨hlow, -, he⟩ <;> omega

/-- A running run has a step left. -/
theorem State.Inv.stepsLeft_pos {s : State} (h : s.Inv) (hb : s.status.busy = true) : 0 < s.stepsLeft := by
  rcases h.stepsLeft_cases hb with ⟨-, he⟩ | ⟨-, he, -⟩ | ⟨-, hhigh, he⟩ <;> omega

theorem State.busy_of_stepsLeft_pos {s : State} (h : 0 < s.stepsLeft) : s.status.busy = true := by
  by_contra hb
  rw [State.stepsLeft_idle (eq_false_of_ne_true hb)] at h
  exact absurd h (lt_irrefl 0)

/-- The last step of a run is COMBINE's (rule R218). -/
theorem State.Inv.phase_of_stepsLeft_one {s : State} (h : s.Inv) (h1 : s.stepsLeft = 1) : s.status.phase = 7 := by
  rcases h.stepsLeft_cases (State.busy_of_stepsLeft_pos (by omega)) with ⟨-, he⟩ | ⟨-, he, -⟩ | ⟨-, -, he⟩
  · omega
  · omega
  · exact BitVec.eq_of_toNat_eq (show _ = 7 by omega)

/-! ### What a micro-op does to them -/

section
variable {s : State} (hb : s.status.busy = true)
include hb

/-- INIT leaves the full blocks and TAIL, or TAIL at once if there is none (rule R171). -/
theorem State.stepsLeft_execInit (hp : s.status.phase = 1) {t : State} (he : execInit s = .next t) :
    t.stepsLeft + 1 = s.stepsLeft := by
  obtain ⟨hbt, hlen, hblk⟩ : t.status.busy = true ∧ t.len = s.len ∧ t.w.blk = 0 := by
    cases he
    exact ⟨hb, rfl, rfl⟩
  have hphase := execInit_phase he
  rw [State.stepsLeft_init hb hp]
  by_cases h16 : 16 ≤ s.len.toNat
  · rw [if_pos h16] at hphase
    rw [State.stepsLeft_block hbt hphase, hlen, hblk]
    rfl
  · rw [if_neg h16] at hphase
    rw [State.stepsLeft_later hbt (by rw [hphase]; decide), hphase, Nat.div_eq_of_lt (by omega)]
    rfl

/-- A block round is one block fewer, and the last is followed by TAIL (rules R173, R174). -/
theorem State.Inv.stepsLeft_blockRound (h : s.Inv) (hp : s.status.phase = 2) (a n : Nat) (v : BitVec 128) :
    ((s.afterRequest a n).blockRound v).stepsLeft + 1 = s.stepsLeft := by
  have hin := h.block_inside hb hp
  have hlt := h.blocksLeft hb hp
  have hnb := h.nb_toNat hb (by rw [hp]; decide)
  have hnext : (s.w.blk + 1).toNat = s.w.blk.toNat + 1 := by bv_omega
  rw [State.stepsLeft_block hb hp]
  by_cases hlast : s.w.blk + 1 = s.w.nb
  · have hblk : s.w.blk.toNat + 1 = s.len.toNat / 16 := by rw [← hnext, hlast, hnb]
    have hst := State.blockRound_status_last (s := s.afterRequest a n) hlast v
    rw [State.stepsLeft_later (by rw [hst]; exact hb) (by rw [hst, Status.toPhase_phase]; decide), hst, ← hblk,
      Nat.add_sub_cancel_left]
    rfl
  · have hst := State.blockRound_status_more (s := s.afterRequest a n) hlast v
    rw [State.stepsLeft_block (by rw [hst]; exact hb) (by rw [hst]; rfl), State.blockRound_w_blk,
      State.blockRound_len, State.afterRequest_w, State.afterRequest_len, hnext]
    omega

/-- From TAIL on each micro-op names the next phase (rule R31). -/
theorem State.stepsLeft_toPhase {t : State} {p : BitVec 4} (hp : 3 ≤ s.status.phase.toNat)
    (hp' : p.toNat = s.status.phase.toNat + 1) (hle : p.toNat ≤ 7) (hst : t.status = s.status.toPhase p) :
    t.stepsLeft + 1 = s.stepsLeft := by
  rw [State.stepsLeft_later hb hp,
    State.stepsLeft_later (by rw [hst]; exact hb) (by rw [hst, Status.toPhase_phase]; omega), hst, Status.toPhase_phase]
  omega

end

/-- A micro-op of a run leaves one step fewer, or its read failed and the run has ended (rules R31, R236). -/
theorem exec_microOp_stepsLeft {i : Instr} {s t : State} (hf : i.format = .phase) (hs : s.Inv)
    (hb : s.status.busy = true) (hp : s.status.phase = i.code) (h : exec i s = .next t) :
    t.stepsLeft + 1 = s.stepsLeft ∨ (s.nextAnswer = .err ∧ t.status.busy = false) := by
  cases i with
  | idle =>
    obtain ⟨-, -, -, hlow, -⟩ := hs.status.running hb
    rw [hp] at hlow
    exact absurd hlow (by decide)
  | init => exact .inl (State.stepsLeft_execInit hb hp h)
  | block =>
    rcases execBlock_cases h with ⟨-, -, ⟨-, rfl⟩ | ⟨hn, rfl⟩⟩
    · exact .inl (hs.stepsLeft_blockRound hb hp _ _ _)
    · exact .inr ⟨hn, rfl⟩
  | tail =>
    have folded (hst : t.status = s.status.toPhase 4) : t.stepsLeft + 1 = s.stepsLeft :=
      State.stepsLeft_toPhase hb (by rw [hp]; decide) (by rw [hp]; rfl) (by decide) hst
    rcases execTail_cases h with ⟨-, rfl⟩ | ⟨-, -, -, ⟨-, rfl⟩ | ⟨hn, rfl⟩⟩
    · exact .inl (folded rfl)
    · exact .inl (folded rfl)
    · exact .inr ⟨hn, rfl⟩
  | lfold | xlane | fmix =>
    cases h
    exact .inl (State.stepsLeft_toPhase hb (by rw [hp]; decide) (by rw [hp]; rfl) (by decide) rfl)
  | combine =>
    cases h
    rw [State.stepsLeft_idle rfl, State.stepsLeft_later hb (by rw [hp]; decide), hp]
    exact .inl rfl
  | phaseReserved8 | phaseReserved9 | phaseReservedA | phaseReservedB | phaseReservedC | phaseReservedD
  | phaseReservedE | phaseReservedF => cases h
  | nop | hash | abort | clear | reserved4 | reserved5 | reserved6 | reserved7 | reserved8 | reserved9 | reservedA
  | reservedB | reservedC | reservedD | reservedE | reservedF => cases hf

/-- A micro-op takes at most one of the port's answers (rule R9). -/
theorem exec_microOp_portStaysOk {i : Instr} {s t : State} (hf : i.format = .phase) (hport : s.PortStaysOk)
    (h : exec i s = .next t) : t.PortStaysOk := by
  cases i with
  | block =>
    have hafter := hport.afterRequest (s.blockAddress s.w.blk) 16
    rcases execBlock_cases h with ⟨-, -, ⟨-, rfl⟩ | ⟨-, rfl⟩⟩
    · exact hafter
    · exact hafter
  | tail =>
    have hafter := hport.afterRequest s.tailAddress s.remainder
    rcases execTail_cases h with ⟨-, rfl⟩ | ⟨-, -, -, ⟨-, rfl⟩ | ⟨-, rfl⟩⟩
    · exact hport
    · exact hafter
    · exact hafter
  | idle | init | lfold | xlane | fmix | combine => cases h; exact hport
  | phaseReserved8 | phaseReserved9 | phaseReservedA | phaseReservedB | phaseReservedC | phaseReservedD
  | phaseReservedE | phaseReservedF => cases h
  | nop | hash | abort | clear | reserved4 | reserved5 | reserved6 | reserved7 | reserved8 | reserved9 | reservedA
  | reservedB | reservedC | reservedD | reservedE | reservedF => cases hf

/-- The next step of a running run with no event pending is the micro-op PHASE names, and has a next state (rules R170, R270). -/
theorem State.Inv.step_alone {s : State} (hs : s.Inv) (hb : s.status.busy = true) (hi : s.inputs = []) :
    ∃ i t, i.format = .phase ∧ s.status.phase = i.code ∧ exec i s.turnTaken = .next t ∧ step s = .next t := by
  obtain ⟨i, -, hf, hc⟩ := decodeCode_spec .phase s.status.phase
  obtain ⟨t, ht⟩ := hs.turnTaken.microOp_answers hb hf hc.symm
  exact ⟨i, t, hf, hc.symm, ht, (step_microOp (.inl hi) hf hb hc).trans ht⟩

/-! ### Steps on end -/

theorem run_succ {M : Host.Core} {k : Nat} {s t : M.State} (h : M.step s = .next t) : M.run (k + 1) s = M.run k t := by
  rw [Host.Core.run, h]

theorem run_one {M : Host.Core} {s t : M.State} (h : M.step s = .next t) : M.run 1 s = .next t :=
  run_succ (k := 0) h

/-- The rest of a run is the run from the state it has come to. -/
theorem run_add {M : Host.Core} {j k : Nat} {s t : M.State} (h : M.run j s = .next t) :
    M.run (j + k) s = M.run k t := by
  induction j generalizing s with
  | zero => cases h; rw [Nat.zero_add]
  | succ j ih =>
    rw [Nat.succ_add]
    rw [Host.Core.run] at h ⊢
    split at h
    · exact ih h
    · cases h
    · cases h

/-- Left to itself a machine is idle within the steps left, whatever the port answers (rules R215, R270). -/
theorem State.Inv.run_ends {n : Nat} {s : State} (hs : s.Inv) (hi : s.inputs = []) (hn : s.stepsLeft ≤ n) :
    ∃ k, k ≤ n ∧ ∃ t : State, Host.Core.run Sys2Proof.core k s = .next t ∧ t.status.busy = false := by
  induction n generalizing s with
  | zero =>
    refine ⟨0, le_rfl, s, rfl, eq_false_of_ne_true fun hb => ?_⟩
    exact absurd (hs.stepsLeft_pos hb) hn.not_gt
  | succ n ih =>
    cases hb : s.status.busy with
    | false => exact ⟨0, Nat.zero_le _, s, rfl, hb⟩
    | true =>
      obtain ⟨i, t, hf, hp, he, hstep⟩ := hs.step_alone hb hi
      have hless : t.stepsLeft ≤ n := by
        rcases exec_microOp_stepsLeft (s := s.turnTaken) hf hs.turnTaken hb hp he with hone | ⟨-, hend⟩
        · change t.stepsLeft + 1 = s.stepsLeft at hone
          omega
        · rw [State.stepsLeft_idle hend]
          exact Nat.zero_le n
      have hi' : t.inputs = [] := by
        obtain ⟨-, -, -, -, -, hinputs, -⟩ := exec_frame he
        rw [hinputs, State.turnTaken_inputs, hi, List.tail_nil]
      obtain ⟨k, hk, u, hrun, hu⟩ := ih (stepKeepsInvariant s t hs hstep) hi' hless
      exact ⟨k + 1, by omega, u, (run_succ hstep).trans hrun, hu⟩

/-- Settles O55: the steps left bound the run, and there are at most `floor(LEN/16) + 6`. -/
theorem everyRunEnds : Obligations.EveryRunEnds :=
  fun _ hs hb hi => hs.run_ends hi (hs.stepsLeft_le hb)

/-! ### A run that nothing disturbs -/

/-- A machine left to itself whose lanes match, with no byte of its region written during the run and a port that does not fail. -/
structure State.Undisturbed (s : State) : Prop where
  inv : s.Inv
  lanes : s.LanesMatch
  untouched : s.touched = []
  alone : s.inputs = []
  port : s.PortStaysOk

/-- The digest a run over the region computes (rule R217). -/
def State.regionDigest (s : State) : Lanes := hash128 s.regionBytes s.seed

/-- Each step of an undisturbed run takes one of its steps left, and its digest stays the same (rules R39, R66, R218). -/
theorem State.Undisturbed.step {s : State} (h : s.Undisturbed) (hb : s.status.busy = true) :
    ∃ t, Machine.step s = .next t ∧ t.Undisturbed ∧ t.stepsLeft + 1 = s.stepsLeft ∧ t.regionDigest = s.regionDigest := by
  obtain ⟨i, t, hf, hp, he, hstep⟩ := h.inv.step_alone hb h.alone
  obtain ⟨-, hseed, hlen, hsrc, hmem, hinputs, -⟩ := exec_frame he
  have hport : s.turnTaken.PortStaysOk := h.port
  refine ⟨t, hstep, ⟨stepKeepsInvariant s t h.inv hstep, stepKeepsDigestLanes s t h.inv h.lanes hstep, ?_, ?_,
    exec_microOp_portStaysOk hf hport he⟩, ?_, ?_⟩
  · exact (exec_touched he hb).trans h.untouched
  · rw [hinputs, State.turnTaken_inputs, h.alone, List.tail_nil]
  · rcases exec_microOp_stepsLeft (s := s.turnTaken) hf h.inv.turnTaken hb hp he with hone | ⟨herr, -⟩
    · exact hone
    · cases hport.next.symm.trans herr
  · unfold State.regionDigest State.regionBytes
    rw [hseed, hlen, hsrc, hmem]
    rfl

/-- An undisturbed run goes on for as many steps as it has left (rule R218). -/
theorem State.Undisturbed.run {k n : Nat} {s : State} (h : s.Undisturbed) (hn : s.stepsLeft = k + n) :
    ∃ u : State, Host.Core.run Sys2Proof.core k s = .next u ∧ u.Undisturbed ∧ u.stepsLeft = n ∧
      u.regionDigest = s.regionDigest := by
  induction k generalizing s with
  | zero => exact ⟨s, rfl, h, by omega, rfl⟩
  | succ k ih =>
    obtain ⟨t, hstep, ht, hone, hdigest⟩ := h.step (State.busy_of_stepsLeft_pos (by omega))
    obtain ⟨u, hrun, hu, hleft, hdigest'⟩ := ih ht (by omega)
    exact ⟨u, (run_succ hstep).trans hrun, hu, hleft, hdigest'.trans hdigest⟩

/-- An accepted HASH with nothing else pending starts an undisturbed run (rule R112). -/
theorem State.Inv.startRun_undisturbed {s : State} (hs : s.Inv) (hi : s.inputs = []) (hport : s.PortStaysOk)
    (hr : s.regionInvalid = false) (hd : s.cfg.touchesDevice s.src.toNat s.len.toNat = false) :
    s.startRun.Undisturbed :=
  ⟨hs.startRun hr hd, fun _ _ hp => absurd rfl hp, rfl, hi, hport⟩

/-- Settles O54: HASH starts an undisturbed run with `floor(LEN/16) + 6` steps left, and the last of them is COMBINE's. -/
theorem runComputesDigest : Obligations.RunComputesDigest := by
  intro s hs hb hi hport hfit hd
  have hr : s.regionInvalid = false := State.regionInvalid_eq_false.2 hfit
  have hstart : step s = .next s.turnTaken.startRun := by
    rw [step_decodedCommand (.inl rfl) (.inl rfl) hi (i := .hash) (by decide)]
    exact execHash_accepted (s := s.turnTaken) hb hr hd
  have hrun := hs.turnTaken.startRun_undisturbed (by rw [State.turnTaken_inputs, hi, List.tail_cons]) hport hr hd
  have hfirst (k : Nat) : Host.Core.run Sys2Proof.core (1 + k) s = Host.Core.run Sys2Proof.core k s.turnTaken.startRun :=
    run_add (run_one hstart)
  have hleft : s.turnTaken.startRun.stepsLeft = s.len.toNat / 16 + 6 := State.stepsLeft_init rfl rfl
  refine ⟨fun k hk => ?_, ?_⟩
  · obtain ⟨u, hu, -, hpos, -⟩ := hrun.run (k := k) (n := s.len.toNat / 16 + 6 - k) (by omega)
    exact ⟨u, (hfirst k).trans hu, State.busy_of_stepsLeft_pos (by omega)⟩
  · obtain ⟨u, hu, hund, h1, hdigest⟩ := hrun.run (k := s.len.toNat / 16 + 5) (n := 1) hleft
    obtain ⟨t, hstep, hst, hres, -⟩ := combineDeliversDigest u hund.inv hund.lanes (.inl hund.alone)
      (State.busy_of_stepsLeft_pos (by omega)) (hund.inv.phase_of_stepsLeft_one h1) hund.untouched
    exact ⟨t, ((hfirst _).trans (run_add (k := 1) hu)).trans (run_one hstep), hst, hres.trans hdigest⟩

end Sys2Proof.Machine
end

section
/-! Errors (rules R230 to R238): how an error state is entered and left, by the instruction of the turn and the test that it makes. -/

namespace Sys2Proof.Machine

/-! ### The cause of an error -/

/-- The cause of each error entry: the instruction, and the test of it that raises the error (rules R230 to R234). -/
inductive ErrorCause (s : State) : Instr → ErrCode → Prop where
  | regionDoesNotFit : s.status.busy = false → s.regionInvalid = true → ErrorCause s .hash .invalidInput
  | blockReadFails : s.nextAnswer = .err → ErrorCause s .block .busError
  | tailReadFails : s.nextAnswer = .err → ErrorCause s .tail .busError
  | runAborted : s.status.busy = true → ErrorCause s .abort .aborted
  | reservedCommand {i : Instr} :
      i.format = .ctrl → 4 ≤ i.code.toNat → s.status.busy = false → ErrorCause s i .illegalCmd

/-- A port that answers `Err` is one that can fail (rule R232). -/
theorem State.portCanFail_of_nextAnswer_err {s : State} (h : s.nextAnswer = .err) : s.cfg.portCanFail = true := by
  cases hc : s.cfg.portCanFail with
  | true => rfl
  | false =>
    have hok : s.nextAnswer = .ok := State.PortStaysOk.next (.inl hc)
    rw [h] at hok
    cases hok

/-- Everything an instruction can do to the recorded error: keep it, drop it as an accepted HASH or an idle CLEAR, or enter one for
its cause (rules R112, R114, R230, R236). -/
theorem exec_error_cases {i : Instr} {s t : State} (h : exec i s = .next t) :
    (t.status.err = s.status.err ∧ t.status.errcode = s.status.errcode) ∨
    (i = .hash ∧ t.status = s.status.accepted) ∨
    (i = .clear ∧ t.status = s.status.cleared) ∨
    (∃ e, ErrorCause s i e ∧ t.status = s.status.error e) := by
  cases i with
  | hash =>
    rcases execHash_cases h with ⟨-, rfl⟩ | ⟨hb, hr, rfl⟩ | ⟨-, -, -, rfl⟩
    · exact .inl ⟨rfl, rfl⟩
    · exact .inr (.inr (.inr ⟨_, .regionDoesNotFit hb hr, rfl⟩))
    · exact .inr (.inl ⟨rfl, rfl⟩)
  | abort =>
    rcases execAbort_cases h with ⟨hb, rfl⟩ | ⟨-, rfl⟩
    · exact .inr (.inr (.inr ⟨_, .runAborted hb, rfl⟩))
    · exact .inl ⟨rfl, rfl⟩
  | clear =>
    rcases execClear_cases h with ⟨-, rfl⟩ | ⟨-, rfl⟩
    · exact .inl ⟨rfl, rfl⟩
    · exact .inr (.inr (.inl ⟨rfl, rfl⟩))
  | reserved4 | reserved5 | reserved6 | reserved7 | reserved8 | reserved9 | reservedA | reservedB | reservedC
  | reservedD | reservedE | reservedF =>
    rcases reservedCommand_cases h with ⟨-, rfl⟩ | ⟨hb, rfl⟩
    · exact .inl ⟨rfl, rfl⟩
    · exact .inr (.inr (.inr ⟨_, .reservedCommand rfl (by decide) hb, rfl⟩))
  | block =>
    rcases execBlock_cases h with ⟨-, -, ⟨-, rfl⟩ | ⟨hn, rfl⟩⟩
    · exact .inl ⟨rfl, rfl⟩
    · exact .inr (.inr (.inr ⟨_, .blockReadFails hn, rfl⟩))
  | tail =>
    rcases execTail_cases h with ⟨-, rfl⟩ | ⟨-, -, -, ⟨-, rfl⟩ | ⟨hn, rfl⟩⟩
    · exact .inl ⟨rfl, rfl⟩
    · exact .inl ⟨rfl, rfl⟩
    · exact .inr (.inr (.inr ⟨_, .tailReadFails hn, rfl⟩))
  | nop | idle | init | lfold | xlane | fmix | combine => cases h; exact .inl ⟨rfl, rfl⟩
  | phaseReserved8 | phaseReserved9 | phaseReservedA | phaseReservedB | phaseReservedC | phaseReservedD
  | phaseReservedE | phaseReservedF => cases h

/-! ### The turn that changes STATUS -/

/-- STATUS changes only in a turn that runs an instruction or in a reset: a read, the write of a slot other than CTRL, an agent's store
and the engine's turn outside a run leave it (rules R20, R170, R260). -/
theorem step_status_cases {s t : State} (h : step s = .next t) :
    t.status = s.status ∨
    (∃ i, s.NextTurnRuns i ∧ exec i s.turnTaken = .next t) ∨
    ((∃ rest, s.inputs = .reset :: rest) ∧ t.status = Status.reset) := by
  rcases step_cases h with ⟨hm, i, hf, hc, he⟩ | ⟨-, -, -, r, part, -, -, rfl⟩ | ⟨width, v, rest, i, hi, hw, hf, hc, he⟩ |
    ⟨-, -, -, -, r, v, -, rfl⟩ | ⟨a, v, -, -, he⟩ | ⟨rest, hr, rfl⟩
  · rcases State.engineCode_cases (s := s) hf hc with ⟨-, rfl⟩ | ⟨hb, hp⟩
    · cases he; exact .inl rfl
    · refine .inr (.inl ⟨i, ?_, he⟩)
      rw [State.NextTurnRuns, hf]
      exact ⟨hm, hb, hp⟩
  · exact .inl rfl
  · refine .inr (.inl ⟨i, ?_, he⟩)
    rw [State.NextTurnRuns, hf]
    exact ⟨width, v, rest, hi, hw, hc.symm⟩
  · exact .inl (s.turnTaken.writeSlot_frame r v).2.1
  · exact .inl (storeByte_frame he).2.1
  · exact .inr (.inr ⟨⟨rest, hr⟩, rfl⟩)

/-- Everything a step can do to the recorded error: keep it, drop it as an accepted HASH, a CLEAR or a reset, or enter one for the cause
that the turn's instruction meets (rules R112, R114, R230, R236, R260). -/
theorem step_error_cases {s t : State} (h : step s = .next t) :
    (t.status.err = s.status.err ∧ t.status.errcode = s.status.errcode) ∨
    (s.NextTurnRuns .hash ∧ t.status = s.status.accepted) ∨
    (s.NextTurnRuns .clear ∧ t.status = s.status.cleared) ∨
    ((∃ rest, s.inputs = .reset :: rest) ∧ t.status = Status.reset) ∨
    (∃ i e, s.NextTurnRuns i ∧ exec i s.turnTaken = .next t ∧ ErrorCause s.turnTaken i e ∧
      t.status = s.status.error e) := by
  rcases step_status_cases h with hst | ⟨i, hrun, he⟩ | hreset
  · exact .inl ⟨congrArg Status.err hst, congrArg Status.errcode hst⟩
  · rcases exec_error_cases he with hkept | ⟨rfl, hst⟩ | ⟨rfl, hst⟩ | ⟨e, hcause, hst⟩
    · exact .inl hkept
    · exact .inr (.inl ⟨hrun, hst⟩)
    · exact .inr (.inr (.inl ⟨hrun, hst⟩))
    · exact .inr (.inr (.inr (.inr ⟨i, e, hrun, he, hcause, hst⟩)))
  · exact .inr (.inr (.inr (.inl hreset)))

/-- A step that raises ERR has entered an error for a cause (rule R230). -/
theorem step_raisesErr {s t : State} (h : step s = .next t) (hs : s.status.err = false) (ht : t.status.err = true) :
    ∃ i e, s.NextTurnRuns i ∧ exec i s.turnTaken = .next t ∧ ErrorCause s.turnTaken i e ∧
      t.status = s.status.error e := by
  rcases step_error_cases h with ⟨hkept, -⟩ | ⟨-, hst⟩ | ⟨-, hst⟩ | ⟨-, hst⟩ | hentered
  · simp [hs, ht] at hkept
  · simp [hst] at ht
  · simp [hst] at ht
  · simp [hst, Status.reset] at ht
  · exact hentered

/-- A step that raises BUS_ERROR has entered an error for a cause of that code (rules R230, R232). -/
theorem step_raisesBusError {s t : State} (h : step s = .next t) (hs : s.status.errcode ≠ .busError)
    (ht : t.status.errcode = .busError) : ∃ i, s.NextTurnRuns i ∧ ErrorCause s.turnTaken i .busError := by
  rcases step_error_cases h with ⟨-, hkept⟩ | ⟨-, hst⟩ | ⟨-, hst⟩ | ⟨-, hst⟩ | ⟨i, e, hrun, -, hcause, hst⟩
  · exact absurd (hkept.symm.trans ht) hs
  · simp [hst] at ht
  · simp [hst] at ht
  · simp [hst, Status.reset] at ht
  · obtain rfl : e = .busError := by simpa [hst] using ht
    exact ⟨i, hrun, hcause⟩

/-! ### The statements -/

theorem ErrorCause.ne_combine {s : State} {i : Instr} {e : ErrCode} (h : ErrorCause s i e) : i ≠ .combine := by
  rintro rfl
  cases h with
  | reservedCommand hf => cases hf

/-- Settles O42: the turn's instruction meets one of the causes, each with its code, and no instruction but COMBINE writes another
register of the window. -/
theorem fourErrorCauses : Obligations.FourErrorCauses := by
  intro s t h hs ht
  obtain ⟨i, e, hrun, he, hcause, hst⟩ := step_raisesErr h hs ht
  obtain ⟨-, hseed, hlen, hsrc, -⟩ := exec_frame he
  obtain ⟨hresult, hresultH2⟩ := exec_result hcause.ne_combine he
  have hword : t.status.toWord = 0x4 ||| e.code.setWidth 64 <<< 4 := by rw [hst, Status.error_toWord]
  refine ⟨⟨i, hrun, he, ?_⟩, hseed, hlen, hsrc, hresult, hresultH2⟩
  cases hcause with
  | regionDoesNotFit hb hr =>
    obtain ⟨h0, hlt⟩ := State.regionInvalid_eq_true.1 hr
    exact .inl ⟨rfl, hb, h0, hlt, hword⟩
  | blockReadFails hn =>
    obtain ⟨-, hb, -⟩ := hrun
    exact .inr (.inl ⟨.inl rfl, hb, hn, hword⟩)
  | tailReadFails hn =>
    obtain ⟨-, hb, -⟩ := hrun
    exact .inr (.inl ⟨.inr rfl, hb, hn, hword⟩)
  | runAborted hb => exact .inr (.inr (.inl ⟨rfl, hb, hword⟩))
  | reservedCommand hf hc hb => exact .inr (.inr (.inr ⟨hf, hc, hb, hword⟩))

/-- Settles O43: of the causes only the failed reads of BLOCK and TAIL, in the phases 2 and 3 of a run, have the code BUS_ERROR. -/
theorem busErrorOnlyFromFailedRead : Obligations.BusErrorOnlyFromFailedRead := by
  intro s t h hs ht
  obtain ⟨i, hrun, hcause⟩ := step_raisesBusError h hs ht
  cases hcause with
  | blockReadFails hn =>
    obtain ⟨hm, hb, hp⟩ := hrun
    exact ⟨hm, hb, .inl hp, hn, State.portCanFail_of_nextAnswer_err hn⟩
  | tailReadFails hn =>
    obtain ⟨hm, hb, hp⟩ := hrun
    exact ⟨hm, hb, .inr hp, hn, State.portCanFail_of_nextAnswer_err hn⟩

/-- Settles O59: of the instructions only an accepted HASH and an idle CLEAR drop a recorded error, and in an error state no run is in
progress (rule R30). -/
theorem errorLeftOnlyByClearHashReset : Obligations.ErrorLeftOnlyByClearHashReset := by
  intro s t hl h hs ht
  have hb : s.status.busy = false := by
    refine eq_false_of_ne_true fun hb => ?_
    obtain ⟨-, herr, -⟩ := hl.running hb
    rw [hs] at herr
    cases herr
  rcases step_error_cases h with ⟨hkept, -⟩ | ⟨hrun, hst⟩ | ⟨hrun, hst⟩ | ⟨hreset, hst⟩ | ⟨-, e, -, -, -, hst⟩
  · simp [hs, ht] at hkept
  · exact .inr (.inl ⟨hrun, by rw [hst, Status.accepted_toWord]⟩)
  · exact .inl ⟨hrun, by rw [hst, hl.cleared_toWord hb]⟩
  · exact .inr (.inr ⟨hreset, by rw [hst]; decide⟩)
  · simp [hst] at ht

end Sys2Proof.Machine
end

section
/-! The writes a running run ignores (rule R267), and the reset (rules R260, R261). -/

namespace Sys2Proof.Machine

/-! ### A write during a run -/

/-- While a run is in progress ABORT is the only command with an effect (rules R111 to R115). -/
theorem exec_command_busy {i : Instr} {s : State} (hf : i.format = .ctrl) (hb : s.status.busy = true) (ha : i ≠ .abort) :
    exec i s = .next s := by
  cases i with
  | nop => rfl
  | hash => exact execHash_busy hb
  | abort => exact absurd rfl ha
  | clear => exact execClear_busy hb
  | reserved4 | reserved5 | reserved6 | reserved7 | reserved8 | reserved9 | reservedA | reservedB | reservedC
  | reservedD | reservedE | reservedF => exact reservedCommand_busy hb
  | idle | init | block | tail | lfold | xlane | fmix | combine | phaseReserved8 | phaseReserved9 | phaseReservedA
  | phaseReservedB | phaseReservedC | phaseReservedD | phaseReservedE | phaseReservedF => cases hf

/-- Every access rules R61 and R62 admit reaches some part of a slot. -/
theorem exists_resolve_of_wf {c : Config} {a : Access} (h : a.wf c.regBase = true) :
    ∃ r part, c.resolve a.addr a.width = some (r, part) := by
  obtain ⟨r, ⟨-, -, hr⟩ | ⟨-, -, hr⟩ | ⟨-, -, hr⟩⟩ := resolve_of_wf h <;> exact ⟨r, _, hr⟩

/-- Settles O45: an admitted write that reaches CTRL's command field runs a command other than ABORT, and any other is the write of a
slot. -/
theorem busyWritesIgnored : Obligations.BusyWritesIgnored := by
  rintro s rest _ addr width v hb rfl hwf hnotAbort
  obtain ⟨r, part, hr⟩ : ∃ r part, s.cfg.resolve addr width = some (r, part) := exists_resolve_of_wf hwf
  by_cases hslot : r ≠ .ctrl ∨ part = .hi
  · rw [step_write hr hslot, State.writeSlot_busy hb]
  · obtain ⟨rfl, hpart⟩ : r = .ctrl ∧ part ≠ .hi := by simpa using hslot
    obtain ⟨rfl, hw⟩ := resolve_command hr hpart
    obtain ⟨i, -, hf, hc⟩ := decodeCode_spec .ctrl (v.extractLsb' 0 4)
    have hi : i ≠ .abort := by
      rintro rfl
      exact hnotAbort rfl hc.symm
    exact (step_command hw hf hc).trans (exec_command_busy hf hb hi)

/-! ### The reset -/

theorem Status.reset_toWord : Status.reset.toWord = 0 := by decide

/-- A reset leaves 0 in every slot of the window (rule R260). -/
theorem State.hardwareReset_readSlot (s : State) (r : Slot) : s.hardwareReset.readSlot r = 0 := by
  cases r with
  | status => exact Status.reset_toWord
  | ctrl | seed | len | src | result | resultH2 | reserved => rfl

/-- The reset state is as a reset leaves it but for the working registers and the draws, which no slot shows (rule R261). -/
theorem State.reset_readSlot (r : Slot) : State.reset.readSlot r = 0 := State.reset.hardwareReset_readSlot r

/-- No run is in progress in the reset state and its memory lists no byte. -/
theorem State.reset_inv : State.reset.Inv := .of_idle rfl Status.reset_legal rfl nofun .nil

/-- Settles O46: the turn is `hardwareReset`, which leaves the parameters, the source memory and the surroundings' pending inputs. -/
theorem resetZeroesWindow : Obligations.ResetZeroesWindow := by
  intro s rest h
  have hstep : step s = .next s.turnTaken.hardwareReset := step_input h
  have hrest : s.turnTaken.inputs = rest := congrArg List.tail h
  refine ⟨_, hstep, s.turnTaken.hardwareReset_readSlot, rfl, ?_⟩
  rw [← hrest]
  rfl

/-- Settles O47: the reset state's window is that of a reset, and its invariant that of an idle machine with an empty memory. -/
theorem resetStateIsIdle : Obligations.ResetStateIsIdle := ⟨State.reset_readSlot, rfl, State.reset_inv⟩

end Sys2Proof.Machine
end

section
/-! The words written out from the encoding tables (rules R90, R91, R93): what a list of bytes is as a CTRL word, of the right length and
of any other. -/

namespace Sys2Proof

/-- Four or eight bytes are the command of the first byte's low nibble, whatever the ignored bits hold (rules R90, R91, R96). -/
theorem decode_ctrl_cons_eq_ok_iff {b : Byte} {rest : List Byte} {i : Instr} (h : rest.length = 3 ∨ rest.length = 7) :
    decode .ctrl (b :: rest) = .ok i ↔ i.format = .ctrl ∧ i.code = lowNibble b := by
  have hrow : decode .ctrl (b :: rest) = decodeCode .ctrl (lowNibble b) := if_pos h
  rw [hrow, decodeCode_eq_ok_iff]

/-- A CTRL word of any other length is refused by its length. -/
theorem decode_ctrl_cons_of_length_ne {b : Byte} {rest : List Byte} (h : ¬(rest.length = 3 ∨ rest.length = 7)) :
    decode .ctrl (b :: rest) = .error (.ctrlLength (rest.length + 1)) := if_neg h

/-- Settles O2: each word has its row's format and code, one byte is from 16 on, and one CTRL word has neither length. -/
theorem specWordsDecode : Obligations.SpecWordsDecode := by
  refine ⟨?nop, ?hash, ?abort, ?clear, ?reserved9, ?idle, ?block, ?combine, ?phaseReservedF, ?wideByte, ?twoBytes⟩
  case nop | hash | clear => exact (decode_ctrl_cons_eq_ok_iff (.inr rfl)).2 ⟨rfl, rfl⟩
  case abort | reserved9 => exact (decode_ctrl_cons_eq_ok_iff (.inl rfl)).2 ⟨rfl, rfl⟩
  case idle | block | combine | phaseReservedF => exact decode_phase_eq_ok_iff.2 ⟨rfl, rfl⟩
  case wideByte => exact decode_phase_of_ge (by decide)
  case twoBytes => exact decode_ctrl_cons_of_length_ne (by decide)

end Sys2Proof
end
